-- ==== Sys2Proof/Word.lean ====
section
/-! DEFINITION. The widths of this hardware's words (R8, R10, R22): bytes of DMEM, 32-bit bus words and registers, 64-bit
blocks, keys and round keys. Every value is an unsigned integer of a stated width, bit 0 least significant (R10, R15). -/

namespace Sys2Proof

/-- One byte of DMEM. -/
abbrev Byte := BitVec 8

/-- One 32-bit word of the host bus. -/
abbrev U32 := BitVec 32

/-- A 64-bit block, key or round key. -/
abbrev U64 := BitVec 64

/-- One Round Key Set: exactly 16 round keys of 64 bits (R30). -/
abbrev RoundKeySet := Vector U64 16

end Sys2Proof
end

