-- ==== Sys2Proof/Syntax.lean ====
section
/-! DEFINITION. The commands, one constructor per row of spec/opcode_table.json (R73). A command carries its two-bit
operand fields as they stand in the command word (R71, R72); every other operand is an implicit register. -/

namespace Sys2Proof

/-- The eight commands of R73. `set` is the field SET = w[5:4], `ksel` the field KSEL = w[7:6]. -/
inductive Instr where
  /-- KSCHED_F (R127): forward schedule of KEY[ksel] into RKS[set]. -/
  | kschedF (set ksel : BitVec 2)
  /-- KSCHED_R (R128): reverse schedule of KEY[ksel] into RKS[set]. -/
  | kschedR (set ksel : BitVec 2)
  /-- KCOMB_F (R129): forward-biased schedules of KCNT keys into RKS. -/
  | kcombF
  /-- KCOMB_R (R130): reverse-biased schedules of KCNT keys into RKS. -/
  | kcombR
  /-- XFORM (R144): one block transform of BLK with RKS[set]. -/
  | xform (set : BitVec 2)
  /-- INVOKE (R162): chained invocation of BLK through RKS under KCNT. -/
  | invoke
  /-- CBC_ENC (R178): CBC encryption of DMEM[SRC ..] into DMEM[DST ..]. -/
  | cbcEnc
  /-- CBC_DEC (R183): CBC decryption of DMEM[SRC ..] into DMEM[DST ..]. -/
  | cbcDec
  deriving DecidableEq, Repr

end Sys2Proof
end

