-- ==== Sys2Proof/WellFormed.lean ====
section
/-! DEFINITION. Which terms of `Instr` are commands: a set index or key register index of 3 is illegal (R71, R73, R74 c). -/

namespace Sys2Proof

/-- A two-bit index field names one of three sets or keys: 3 is illegal (R71). -/
def legalIndex (f : BitVec 2) : Bool := f != 3#2

/-- R73. The field constraints of each command. -/
def Instr.wellFormed : Instr → Bool
  | .kschedF set ksel => legalIndex set && legalIndex ksel
  | .kschedR set ksel => legalIndex set && legalIndex ksel
  | .kcombF => true
  | .kcombR => true
  | .xform set => legalIndex set
  | .invoke => true
  | .cbcEnc => true
  | .cbcDec => true

end Sys2Proof
end

