-- ==== Sys2Proof/Decode.lean ====
section
/-! DEFINITION. The command word (R70 to R74): the decoder, total on every 32-bit word and rejecting by name, and the
encoder, both written from the field layout and opcode map of R71 and R73. -/

namespace Sys2Proof

/-- R74. Why a word is no command. The command itself then ends with STATUS.ERR = 3, whichever name it is. -/
inductive IllegalWord where
  /-- R74 (a): OP is 0x0, 0x7 or 0xA to 0xF. -/
  | opcode
  /-- R74 (b): w[31:8] is not 0. -/
  | reservedBits
  /-- R74 (c): SET = 3 in a command that uses SET. -/
  | setIndex
  /-- R74 (c): KSEL = 3 in a command that uses KSEL. -/
  | keyIndex
  /-- R74 (d): SET ≠ 0 or KSEL ≠ 0 in a command that does not use the field. -/
  | unusedField
  deriving DecidableEq, Repr

/-- R71. OP = w[3:0]. -/
def opField (w : U32) : BitVec 4 := w.extractLsb' 0 4

/-- R71, R72. SET = w[5:4]. -/
def setField (w : U32) : BitVec 2 := w.extractLsb' 4 2

/-- R71, R72. KSEL = w[7:6]. -/
def kselField (w : U32) : BitVec 2 := w.extractLsb' 6 2

/-- R71. RSVD = w[31:8]. -/
def rsvdField (w : U32) : BitVec 24 := w.extractLsb' 8 24

/-- A command that uses SET and KSEL (KSCHED_F, KSCHED_R). -/
def decodeSchedule (mk : BitVec 2 → BitVec 2 → Instr) (w : U32) : Except IllegalWord Instr :=
  if legalIndex (setField w) then
    if legalIndex (kselField w) then .ok (mk (setField w) (kselField w)) else .error .keyIndex
  else .error .setIndex

/-- A command that uses neither SET nor KSEL: both must be 0 (R74 d). -/
def decodePlain (i : Instr) (w : U32) : Except IllegalWord Instr :=
  if setField w = 0#2 ∧ kselField w = 0#2 then .ok i else .error .unusedField

/-- XFORM: uses SET; KSEL must be 0 (R73). -/
def decodeXform (w : U32) : Except IllegalWord Instr :=
  if legalIndex (setField w) then
    if kselField w = 0#2 then .ok (.xform (setField w)) else .error .unusedField
  else .error .setIndex

/-- R73, R74. The command a word encodes, or why it encodes none. -/
def decode (w : U32) : Except IllegalWord Instr :=
  if rsvdField w ≠ 0#24 then .error .reservedBits
  else match (opField w).toNat with
    | 0x1 => decodeSchedule .kschedF w
    | 0x2 => decodeSchedule .kschedR w
    | 0x3 => decodePlain .kcombF w
    | 0x4 => decodePlain .kcombR w
    | 0x5 => decodeXform w
    | 0x6 => decodePlain .invoke w
    | 0x8 => decodePlain .cbcEnc w
    | 0x9 => decodePlain .cbcDec w
    | _ => .error .opcode

/-- R71. The word with the given fields, and RSVD = 0. -/
def commandWord (op : BitVec 4) (set ksel : BitVec 2) : U32 := 0#24 ++ ksel ++ set ++ op

/-- R73. The word of a command. -/
def encode : Instr → U32
  | .kschedF set ksel => commandWord 0x1#4 set ksel
  | .kschedR set ksel => commandWord 0x2#4 set ksel
  | .kcombF => commandWord 0x3#4 0#2 0#2
  | .kcombR => commandWord 0x4#4 0#2 0#2
  | .xform set => commandWord 0x5#4 set 0#2
  | .invoke => commandWord 0x6#4 0#2 0#2
  | .cbcEnc => commandWord 0x8#4 0#2 0#2
  | .cbcDec => commandWord 0x9#4 0#2 0#2

/-- The command word of a row of spec/opcode_table.json: every row is one 32-bit word (R71), whose bit 0 is the table's
bit 0. A row shorter than 32 bits would have zeros above; no longer row exists. -/
def tableWord (nbits w : Nat) : U32 := BitVec.ofNat 32 (w % 2 ^ nbits)

/-- What the decoder reads from the instruction whose `nbits` bits are `w`; none where it refuses. -/
def decodeTableWord (nbits w : Nat) : Option Instr :=
  if nbits ≤ 32 then
    match decode (tableWord nbits w) with
    | .ok i => some i
    | .error _ => none
  else none

end Sys2Proof
end

