-- ==== Sys2Proof/Config.lean ====
section
/-! DEFINITION. What one implementation fixes (R9) and the first of the values the spec leaves free (93 U1). A free value
is a constant with no body: no proof can see it, so a claim holds whatever it is. The free values that may depend on the
whole state stand in Sys2Proof/Machine/FreeValues.lean. -/

namespace Sys2Proof

/-- R9. The parameters of one instance. They are arguments of the model: `State` carries them, nothing writes them, and
every statement is about every value of them (notes/assumptions/1.md). -/
structure Params where
  /-- `BASE`: the bus byte address of window offset 0 (OPEN, any multiple of 64 KiB). -/
  base : Nat
  /-- `DMEM_BYTES`: the size of the local data memory in bytes. -/
  dmemBytes : Nat
  deriving DecidableEq, Repr

/-- R9, R50. The size of the host window in bytes. -/
def windowBytes : Nat := 0x10000

/-- R9. The values the spec allows: `BASE` a multiple of 64 KiB, and 8 ≤ `DMEM_BYTES` ≤ 0x8000. -/
abbrev Params.Legal (p : Params) : Prop :=
  p.base % windowBytes = 0 ∧ 8 ≤ p.dmemBytes ∧ p.dmemBytes ≤ 0x8000

/-- The parameters of `State.reset`: `DMEM_BYTES` at its default (R9), `BASE` at 0 (DESIGN CHOICE, the spec leaves it
open; notes/assumptions/1.md). -/
def Params.standard : Params := { base := 0, dmemBytes := 4096 }

/-- FREE VALUE (R59, R230, 93 U1). The byte that DMEM offset `a` holds after the reset that took draw `d` of the sequence
`source`, until written (notes/assumptions/2.md). -/
opaque Config.powerOnByte (source d a : Nat) : Byte

end Sys2Proof
end

