-- ==== Sys2Proof/Machine/State.lean ====
section
/-! DEFINITION. The state of one instance (spec/10_state.md), as plain data: the registers of R22, DMEM, the parameters of
R9, and the host side the spec gives the machine (R20, R21, R76): the accesses the host has still to make and what the bus
answered. INVENTORY.md lists every field with its rule and reset value. -/

namespace Sys2Proof.Machine

/-- R200. The error codes a command can end with. Codes 6 to 15 are never produced, so they have no name (93 U8). -/
inductive ErrorCode where
  /-- Code 0: completed without error. -/
  | none
  /-- Code 1, LengthError: the buffer length is ≤ 0. -/
  | length
  /-- Code 2, KeyCountError: KCNT is none of 1, 2, 3. -/
  | keyCount
  /-- Code 3, IllegalCommand: the command word is illegal. -/
  | illegalCommand
  /-- Code 4, RangeError: a buffer reaches outside DMEM. -/
  | range
  /-- Code 5, OverlapError: the buffers overlap with SRC ≠ DST. -/
  | overlap
  deriving DecidableEq, Repr

/-- R33. The fields of STATUS; its reserved bits read 0 and are not stored. -/
@[ext]
structure Status where
  /-- Bit 0, BUSY: a command is in flight. -/
  busy : Bool
  /-- Bit 1, DONE: a command completed (W1C). -/
  done : Bool
  /-- Bits 7:4, ERR: the error code of the last completed command. -/
  err : ErrorCode
  /-- Bit 8, CMDLOST: a CMD write was dropped (W1C). -/
  cmdlost : Bool
  /-- Bit 9, WLOST: another write was dropped (W1C). -/
  wlost : Bool
  deriving DecidableEq, Repr

/-- R31, R122. The ordering of a Round Key Set. -/
inductive Direction where
  | forward
  | reverse
  deriving DecidableEq, Repr

/-- R54. Which 32 bits of a 64-bit register a bus word is: bits 63:32 or bits 31:0. -/
inductive Half where
  | hi
  | lo
  deriving DecidableEq, Repr

/-- R80, R81. The bus words of the register map. -/
inductive Reg where
  | cmd
  | status
  | kcnt
  | len
  | src
  | dst
  | iv (h : Half)
  | key (k : Fin 3) (h : Half)
  | blk (h : Half)
  | chain (h : Half)
  | rksDir
  | rks (s : Fin 3) (i : Fin 16) (h : Half)
  deriving DecidableEq, Repr

/-- R56. What a bus access that keeps the access rules reaches; DMEM byte offsets are counted from window offset 0x1000. -/
inductive Target where
  | reg (r : Reg)
  | dmemByte (a : Nat)
  | dmemWord (a : Nat)
  deriving DecidableEq, Repr

/-- R56. The width of a bus access on the 32-bit bus (D21). No target allows 16 bits. -/
inductive Width where
  | byte
  | half
  | word
  deriving DecidableEq, Repr

/-- The data of a bus write, of its width. -/
inductive WriteData where
  | byte (v : Byte)
  | half (v : BitVec 16)
  | word (v : U32)
  deriving DecidableEq, Repr

/-- R20, R76. What the host does next. Addresses are bus byte addresses (R50). -/
inductive HostOp where
  /-- A bus read. -/
  | read (addr : Nat) (w : Width)
  /-- A bus write. -/
  | write (addr : Nat) (d : WriteData)
  /-- R76 `wait`: read STATUS, and again until BUSY reads 0. -/
  | wait
  /-- The reset input (R20, R230, R231). -/
  | reset
  deriving DecidableEq, Repr

/-- What the bus answers the host. -/
inductive Response where
  /-- The value of a 32-bit read. -/
  | data32 (v : U32)
  /-- The value of an 8-bit read. -/
  | data8 (v : Byte)
  /-- A write was taken: performed, ignored (R83) or dropped (R39); the answer does not tell which. -/
  | written
  /-- R56, R210: the access broke the access rules. -/
  | busError
  /-- The address lies outside this block's window (R50): another device's access, to which this block does nothing. -/
  | notSelected
  deriving DecidableEq, Repr

/-- R50, 20_memory.md. DMEM as the list of the bytes written since reset, in one canonical form (`Memory.wf`). -/
abbrev Memory := List Host.Cell

/-- The state of one instance. -/
@[ext]
structure State where
  /-- R9. BASE and DMEM_BYTES; nothing writes them. -/
  params : Params
  /-- R23. KEY0, KEY1, KEY2. -/
  keys : Vector U64 3
  /-- R24. IV. -/
  iv : U64
  /-- R25. KCNT. -/
  kcnt : U32
  /-- R26. LEN. -/
  len : U32
  /-- R27. SRC. -/
  src : U32
  /-- R27. DST. -/
  dst : U32
  /-- R28. BLK. -/
  blk : U64
  /-- R29. CHAIN. -/
  chain : U64
  /-- R30. RKS, the round-key store. -/
  rks : Vector RoundKeySet 3
  /-- R31. RKS_DIR: bit `s` is 0 when RKS[s] was last written in Forward order, 1 when in Reverse order. -/
  rksDir : BitVec 3
  /-- R32. CMD: the last accepted word. -/
  cmd : U32
  /-- R33. STATUS. -/
  status : Status
  /-- R50. The DMEM bytes written since reset. -/
  dmem : Memory
  /-- The model's own: which sequence of free values this instance draws from (notes/assumptions/2.md, 10.md). -/
  source : Nat
  /-- The model's own: the draw that gives the unwritten bytes of DMEM (R59; notes/assumptions/2.md). -/
  dmemDraw : Nat
  /-- The model's own: the number of the next free draw (93 U1, U2, U4; notes/assumptions/2.md). -/
  draws : Nat
  /-- The model's own: while BUSY = 1, how many steps pass before the command completes (R245; notes/assumptions/3.md). -/
  latencyLeft : Nat
  /-- R21. The accesses the host has still to make, the next one first (notes/assumptions/5.md). -/
  host : List HostOp
  /-- What the bus answered, the latest first (notes/assumptions/5.md). -/
  log : List Response
  deriving DecidableEq, Repr

/-- Why the machine stops. -/
inductive Fault where
  /-- Raised by the core's DMEM primitives (R52) for bytes outside 0 .. DMEM_BYTES − 1, which do not exist (R50). Safe. No
  command reaches it: the commands check the range first (R173), and `Obligations.EveryStepAnswersNextState` says so. -/
  | dmemOutOfRange (offset bytes : Nat)
  deriving DecidableEq, Repr

/-- Why an instruction is given no meaning. -/
inductive Refusal where
  /-- Raised only by an arm of `exec` whose command has no meaning yet (there is none). Safe. -/
  | notModelled (mnemonic : String)
  deriving DecidableEq, Repr

/-- R230. The state a reset leaves: every register 0, STATUS 0, every Round Key Set all zero, RKS_DIR 000b, DMEM
unspecified: no byte written, and draw `draw` of the sequence `source` for the bytes it holds. The parameters and the host
side are not the core's to reset (notes/assumptions/11.md). -/
def State.afterReset (p : Params) (source draw : Nat) (host : List HostOp) (log : List Response) : State :=
  { params := p
    keys := Vector.replicate 3 0#64
    iv := 0#64
    kcnt := 0#32
    len := 0#32
    src := 0#32
    dst := 0#32
    blk := 0#64
    chain := 0#64
    rks := Vector.replicate 3 (Vector.replicate 16 0#64)
    rksDir := 0#3
    cmd := 0#32
    status := { busy := false, done := false, err := .none, cmdlost := false, wlost := false }
    dmem := []
    source := source
    dmemDraw := draw
    draws := draw + 1
    latencyLeft := 0
    host := host
    log := log }

/-- R230. The machine right after reset, with the standard parameters, nothing for the host to do and nothing answered. Its
sequence of free values is number 0 (DESIGN CHOICE, notes/assumptions/2.md). -/
def State.reset : State := State.afterReset Params.standard 0 0 [] []

end Sys2Proof.Machine
end

