-- ==== Sys2Proof/Machine/Flags.lean ====
section
/-! DEFINITION. The flags: STATUS as a word and what changes it (R33, R37, R70), the error codes (R200) and the ordering
tags of RKS_DIR (R31). There are no condition codes (R37). -/

namespace Sys2Proof.Machine

/-- R200. The number of an error code. -/
def errorNumber : ErrorCode → BitVec 4
  | .none => 0
  | .length => 1
  | .keyCount => 2
  | .illegalCommand => 3
  | .range => 4
  | .overlap => 5

/-- R33. STATUS as the host reads it; bits 3:2 and 31:10 read 0. -/
def statusWord (st : Status) : U32 :=
  0#22 ++ BitVec.ofBool st.wlost ++ BitVec.ofBool st.cmdlost ++ errorNumber st.err ++ 0#2 ++ BitVec.ofBool st.done
    ++ BitVec.ofBool st.busy

/-- R33. A host write to STATUS clears each W1C bit (DONE, CMDLOST, WLOST) written as 1, and changes nothing else. -/
def statusWritten (st : Status) (v : U32) : Status :=
  { st with
    done := st.done && !v.getLsbD 1
    cmdlost := st.cmdlost && !v.getLsbD 8
    wlost := st.wlost && !v.getLsbD 9 }

/-- R70. STATUS when a command is accepted. CMDLOST and WLOST stay. -/
def statusAccepted (st : Status) : Status :=
  { st with busy := true, done := false, err := .none }

/-- R70, R204. STATUS when a command completes with code `e`. CMDLOST and WLOST stay. -/
def statusCompleted (st : Status) (e : ErrorCode) : Status :=
  { st with busy := false, done := true, err := e }

/-- R31. The tag bit of an ordering. -/
def directionBit : Direction → Bool
  | .forward => false
  | .reverse => true

/-- R31. RKS_DIR with the tag of set `j` written. -/
def writeTag (dir : BitVec 3) (j : Fin 3) (d : Direction) : BitVec 3 :=
  (dir &&& ~~~(1#3 <<< j.val)) ||| ((BitVec.ofBool (directionBit d)).setWidth 3 <<< j.val)

end Sys2Proof.Machine
end

