-- ==== Sys2Proof/Machine/FreeValues.lean ====
section
/-! DEFINITION. The free values of Config that may depend on anything in the machine (93 U1, U2, U4). Each is a constant
with no body, applied to the whole state at the moment it is drawn: no proof can see it, and two draws are related only
when they are made in one and the same state (notes/assumptions/2.md, 3.md). -/

namespace Sys2Proof

open Sys2Proof.Machine

/-- FREE VALUE (R9 `LATENCY`, R245, 93 U4). How many steps pass between the acceptance of the word `w` in state `s` and the
completion of its command: finite and unbounded. It may depend on the instance, the word, the data and what went before, so
no order and no equality of the latencies of different commands can be proved. -/
opaque Config.latency (s : State) (w : U32) : Nat

/-- FREE VALUE (R242, 93 U2). What a 32-bit read of target `t` that the spec leaves unspecified while BUSY = 1 returns. -/
opaque Config.busyWord (s : State) (t : Target) : U32

/-- FREE VALUE (R242, 93 U2). What an 8-bit read of target `t` in DMEM while BUSY = 1 returns. -/
opaque Config.busyByte (s : State) (t : Target) : Byte

/-- FREE VALUE (R230, R231, 93 U1, U14). The sequence from which the bytes of DMEM come after a reset in state `s`: they may
depend on anything, what DMEM held before among it. -/
opaque Config.sourceAfterReset (s : State) : Nat

end Sys2Proof
end

