-- ==== Sys2Proof/Machine/Bits.lean ====
section
/-! DEFINITION. Bit numbering, the permutation primitive and byte order (R10 to R13, R53). -/

namespace Sys2Proof.Machine

/-- R11. Table position `p` of a `W`-bit value: the `p`-th bit from the most significant end, position 1 the MSB. -/
def pos {W : Nat} (v : BitVec W) (p : Nat) : Bool := v.getLsbD (W - p)

/-- R12. One step of `permute`: the value so far moved up by one bit, position `p` of `v` below it. -/
def permuteStep {W M : Nat} (v : BitVec W) (out : BitVec M) (p : Nat) : BitVec M :=
  (out <<< 1) ||| (BitVec.ofBool (pos v p)).setWidth M

/-- R12. The `M`-bit value whose `j`-th bit from the most significant end is position `T[j]` of `v`, `T` of `M` entries. -/
def permute {W : Nat} (M : Nat) (T : List Nat) (v : BitVec W) : BitVec M :=
  T.foldl (permuteStep v) 0#M

/-- R140. The slice of a 32-bit value at bit `p`: its bits `p+5 : p`. -/
def slice6 (x : U32) (p : Nat) : BitVec 6 := x.extractLsb' p 6

/-- R13. One byte more of a big-endian number. -/
def loadStep (acc : U64) (b : Byte) : U64 := (acc <<< 8) ||| b.setWidth 64

/-- R13, R53. A byte sequence as a big-endian number: the first byte is most significant. -/
def load64 (bs : List Byte) : U64 :=
  bs.foldl loadStep 0#64

/-- R13. Byte `i` of a 64-bit value: bits `63−8i : 56−8i`. -/
def byte64 (v : U64) (i : Nat) : Byte := v.extractLsb' (56 - 8 * i) 8

/-- R13, R53. The eight bytes of a value, most significant first. -/
def store64 (v : U64) : List Byte :=
  [byte64 v 0, byte64 v 1, byte64 v 2, byte64 v 3, byte64 v 4, byte64 v 5, byte64 v 6, byte64 v 7]

/-- R54. The four bytes of a bus word in big-endian lane order. -/
def bytes32 (v : U32) : List Byte :=
  [v.extractLsb' 24 8, v.extractLsb' 16 8, v.extractLsb' 8 8, v.extractLsb' 0 8]

end Sys2Proof.Machine
end

