-- ==== Sys2Proof/Machine/Operands.lean ====
section
/-! DEFINITION. The operand forms (R72, R73): the index fields of the command word, and the readings of KCNT, LEN, SRC and
DST with the checks the spec makes on them (R172, R173, R125). -/

namespace Sys2Proof.Machine

/-- R71, R72. The set or key register an index field names: 0, 1 or 2; 3 names none. -/
def index3? (f : BitVec 2) : Option (Fin 3) :=
  if h : f.toNat < 3 then some ⟨f.toNat, h⟩ else none

/-- R160. The key count, as the tagged variant the source asks for. -/
inductive KeyCount where
  | oneKey
  | twoKey
  | threeKey
  deriving DecidableEq, Repr

/-- R25, R125. The key count KCNT holds: only 1, 2 and 3 are legal. -/
def keyCount? (kcnt : U32) : Option KeyCount :=
  if kcnt = 1#32 then some .oneKey
  else if kcnt = 2#32 then some .twoKey
  else if kcnt = 3#32 then some .threeKey
  else none

/-- R172. The buffer length LEN holds: none when its signed reading is ≤ 0. -/
def bufferLength? (len : U32) : Option Nat :=
  if len.toInt ≤ 0 then none else some len.toNat

/-- R173. Both buffers lie inside DMEM, compared as unbounded integers. -/
def inRange (dmemBytes src dst L : Nat) : Bool :=
  decide (src + L ≤ dmemBytes) && decide (dst + L ≤ dmemBytes)

/-- R173. The buffers overlap although SRC ≠ DST. -/
def overlaps (src dst L : Nat) : Bool :=
  decide (src ≠ dst) && decide (src < dst + L) && decide (dst < src + L)

/-- The implicit operands of a CBC command once its checks have passed. -/
structure CbcOperands where
  /-- L, the buffer length. -/
  length : Nat
  /-- N, the key count. -/
  count : KeyCount
  /-- SRC as a DMEM byte offset. -/
  src : Nat
  /-- DST as a DMEM byte offset. -/
  dst : Nat
  deriving DecidableEq, Repr

/-- R171, R203. The checks of a CBC command, in the order of precedence: length, key count, range, overlap. -/
def cbcOperands (s : State) : Except ErrorCode CbcOperands :=
  match bufferLength? s.len with
  | none => .error .length
  | some L =>
    match keyCount? s.kcnt with
    | none => .error .keyCount
    | some n =>
      if inRange s.params.dmemBytes s.src.toNat s.dst.toNat L then
        if overlaps s.src.toNat s.dst.toNat L then .error .overlap
        else .ok { length := L, count := n, src := s.src.toNat, dst := s.dst.toNat }
      else .error .range

end Sys2Proof.Machine
end

