-- ==== Sys2Proof/Machine/Ops.lean ====
section
/-! DEFINITION. The named operations over DMEM and the registers that the commands and the bus share, and completion, the
one operation that ends a command and reports its error in place of an exception (R204). -/

namespace Sys2Proof.Machine

/-! ## DMEM -/

/-- What an address the list does not name holds: no value of the list's own. The byte read there is a free value
(`State.dmemByte`; R59, notes/assumptions/2.md). -/
def Memory.unlisted : Option Byte := none

/-- The byte the list holds at an address. -/
def Memory.get? : Memory → Nat → Option Byte
  | [], _ => Memory.unlisted
  | c :: m, a => if c.1 = a then some c.2 else Memory.get? m a

/-- The list with one byte written. -/
def Memory.set : Memory → Nat → Byte → Memory
  | [], a, v => [(a, v)]
  | c :: m, a, v =>
    if a < c.1 then (a, v) :: c :: m
    else if c.1 = a then (a, v) :: m
    else c :: Memory.set m a v

/-- The canonical form: addresses strictly rising. (No entry can equal what an unlisted address holds, which is none.) -/
abbrev Memory.wf (m : Memory) : Prop := m.Pairwise (fun c d => c.1 < d.1)

/-- The bytes `bs` written at `a`, `a + 1`, … -/
def Memory.setBytes : Memory → Nat → List Byte → Memory
  | m, _, [] => m
  | m, a, b :: bs => Memory.setBytes (Memory.set m a b) (a + 1) bs

/-- R59. The byte DMEM offset `a` holds: the one written, else the free draw made at reset, stable until written. -/
def State.dmemByte (s : State) (a : Nat) : Byte :=
  (Memory.get? s.dmem a).getD (Config.powerOnByte s.source s.dmemDraw a)

/-- The `n` bytes DMEM holds from offset `a` on. -/
def State.dmemSlice (s : State) (a n : Nat) : List Byte :=
  (List.range n).map (fun i => s.dmemByte (a + i))

/-- DMEM with the bytes `bs` stored from offset `a` on. -/
def State.storeBytes (s : State) (a : Nat) (bs : List Byte) : State :=
  { s with dmem := Memory.setBytes s.dmem a bs }

/-- R52. MemRead(a, n), for bytes that exist (R50). -/
def State.memRead (s : State) (a n : Nat) : Option (List Byte) :=
  if a + n ≤ s.params.dmemBytes then some (s.dmemSlice a n) else none

/-- R52. MemWrite(a, n, v), for bytes that exist (R50). -/
def State.memWrite (s : State) (a : Nat) (bs : List Byte) : Option State :=
  if a + bs.length ≤ s.params.dmemBytes then some (s.storeBytes a bs) else none

/-! ## Registers the core writes -/

/-- R30, R31. Round Key Set `j` and its ordering tag. -/
def State.writeRks (s : State) (j : Fin 3) (d : Direction) (K : RoundKeySet) : State :=
  { s with rks := s.rks.set j K, rksDir := writeTag s.rksDir j d }

/-- R28. The output Cipher Block of XFORM and INVOKE. -/
def State.writeBlk (s : State) (v : U64) : State := { s with blk := v }

/-- R29. The final chaining value of a CBC command. -/
def State.writeChain (s : State) (v : U64) : State := { s with chain := v }

/-! ## Acceptance and completion -/

/-- R32, R70. The word is accepted: stored in CMD, BUSY set, DONE and ERR cleared. The latency of the command is a free
value (R245). -/
def State.accept (s : State) (w : U32) : State :=
  { s with
    cmd := w
    status := statusAccepted s.status
    latencyLeft := Config.latency s w
    draws := s.draws + 1 }

/-- R70, R204. The completion step: ERR set to the code, BUSY cleared, DONE set. -/
def State.complete (s : State) (e : ErrorCode) : State := { s with status := statusCompleted s.status e }

/-- R14 `raise`, R202, R204. The command ends with an error: completion with the code, and no other effect. This is the
hardware's whole exception entry: there is no vector, no saved pc and no mode (R204), and no return but the host's
acknowledgement (R205). -/
def State.raise (s : State) (e : ErrorCode) : Host.Outcome State Fault Refusal := .next (s.complete e)

/-- R70, R204. The command ends without error, its effects applied. -/
def State.succeed (s : State) : Host.Outcome State Fault Refusal := .next (s.complete .none)

end Sys2Proof.Machine
end

