-- ==== Sys2Proof/Machine/Bus.lean ====
section
/-! DEFINITION. The host side (spec/20_memory.md, 30_encoding.md section 5, 70_reset_and_hazards.md section 3): the register
map, the access rules, reads and writes with and without a command in flight, and the host's next access. -/

namespace Sys2Proof.Machine

/-! ## The register map -/

/-- R50. The window offset of a bus address, when it lies in this block's window. -/
def windowOffset? (p : Params) (addr : Nat) : Option Nat :=
  if p.base ≤ addr ∧ addr < p.base + windowBytes then some (addr - p.base) else none

/-- R81. The round-key word at an offset of the RKS window. -/
def rksWord (off : Nat) : Reg :=
  .rks (Fin.ofNat 3 ((off - 0x400) / 0x80)) (Fin.ofNat 16 ((off - 0x400) % 0x80 / 8)) (if off % 8 = 0 then .hi else .lo)

/-- R80. The register word at a window offset; none at an offset that is reserved or no multiple of 4. -/
def regAt? (off : Nat) : Option Reg :=
  match off with
  | 0x000 => some .cmd
  | 0x004 => some .status
  | 0x008 => some .kcnt
  | 0x00C => some .len
  | 0x010 => some .src
  | 0x014 => some .dst
  | 0x018 => some (.iv .hi)
  | 0x01C => some (.iv .lo)
  | 0x020 => some (.key 0 .hi)
  | 0x024 => some (.key 0 .lo)
  | 0x028 => some (.key 1 .hi)
  | 0x02C => some (.key 1 .lo)
  | 0x030 => some (.key 2 .hi)
  | 0x034 => some (.key 2 .lo)
  | 0x038 => some (.blk .hi)
  | 0x03C => some (.blk .lo)
  | 0x040 => some (.chain .hi)
  | 0x044 => some (.chain .lo)
  | 0x048 => some .rksDir
  | off => if 0x400 ≤ off ∧ off < 0x580 ∧ off % 4 = 0 then some (rksWord off) else none

/-- R50. The window offset of DMEM byte 0. -/
def dmemOffset : Nat := 0x1000

/-- R56. What an access below DMEM reaches: registers take 32-bit accesses only. -/
def regTarget? (off : Nat) : Width → Option Target
  | .byte => none
  | .half => none
  | .word => (regAt? off).map .reg

/-- R54, R56. What an access at DMEM byte offset `a` reaches: one byte, or an aligned word whose four bytes exist. A 32-bit
access whose four bytes do not all exist touches a reserved offset (R51; notes/assumptions/7.md). -/
def dmemTarget? (dmemBytes a : Nat) : Width → Option Target
  | .byte => if a < dmemBytes then some (.dmemByte a) else none
  | .half => none
  | .word => if a % 4 = 0 ∧ a + 4 ≤ dmemBytes then some (.dmemWord a) else none

/-- R56. What an access of a width at a window offset reaches; none is a bus error. -/
def target? (p : Params) (off : Nat) (w : Width) : Option Target :=
  if off < dmemOffset then regTarget? off w else dmemTarget? p.dmemBytes (off - dmemOffset) w

/-! ## Registers as bus words -/

/-- R54. One half of a 64-bit register. -/
def halfOf (v : U64) : Half → U32
  | .hi => v.extractLsb' 32 32
  | .lo => v.extractLsb' 0 32

/-- R82. A 64-bit register with one half written. -/
def withHalf (v : U64) (h : Half) (w : U32) : U64 :=
  match h with
  | .hi => w ++ halfOf v .lo
  | .lo => halfOf v .hi ++ w

/-- R38, R80, R81. The value of a register word. -/
def State.readReg (s : State) : Reg → U32
  | .cmd => s.cmd
  | .status => statusWord s.status
  | .kcnt => s.kcnt
  | .len => s.len
  | .src => s.src
  | .dst => s.dst
  | .iv h => halfOf s.iv h
  | .key k h => halfOf s.keys[k] h
  | .blk h => halfOf s.blk h
  | .chain h => halfOf s.chain h
  | .rksDir => s.rksDir.setWidth 32
  | .rks j i h => halfOf s.rks[j][i] h

/-- R82, R83. A register word written while no command is in flight: an RW register takes the word, a write to an RO
register changes nothing. CMD and STATUS are `State.hostWriteTarget`'s. -/
def State.writeReg (s : State) (r : Reg) (v : U32) : State :=
  match r with
  | .kcnt => { s with kcnt := v }
  | .len => { s with len := v }
  | .src => { s with src := v }
  | .dst => { s with dst := v }
  | .iv h => { s with iv := withHalf s.iv h v }
  | .key k h => { s with keys := s.keys.set k (withHalf s.keys[k] h v) }
  | .blk h => { s with blk := withHalf s.blk h v }
  | .cmd => s
  | .status => s
  | .chain _ => s
  | .rksDir => s
  | .rks _ _ _ => s

/-! ## Reads -/

/-- R54. The 32-bit word at DMEM offset `a`, in big-endian lanes. -/
def State.dmemWord (s : State) (a : Nat) : U32 :=
  s.dmemByte a ++ s.dmemByte (a + 1) ++ s.dmemByte (a + 2) ++ s.dmemByte (a + 3)

/-- The value a target holds, as the bus answers it. -/
def State.readTarget (s : State) : Target → Response
  | .reg r => .data32 (s.readReg r)
  | .dmemByte a => .data8 (s.dmemByte a)
  | .dmemWord a => .data32 (s.dmemWord a)

/-- R242. What reads as any value while a command is in flight: BLK, CHAIN, RKS_DIR, the RKS window and DMEM. -/
def unspecifiedWhileBusy : Target → Bool
  | .reg .cmd => false
  | .reg .status => false
  | .reg .kcnt => false
  | .reg .len => false
  | .reg .src => false
  | .reg .dst => false
  | .reg (.iv _) => false
  | .reg (.key _ _) => false
  | .reg (.blk _) => true
  | .reg (.chain _) => true
  | .reg .rksDir => true
  | .reg (.rks _ _ _) => true
  | .dmemByte _ => true
  | .dmemWord _ => true

/-- R242. A free value of the access width. -/
def State.freeRead (s : State) (t : Target) : Response :=
  match t with
  | .dmemByte _ => .data8 (Config.busyByte s t)
  | .reg _ => .data32 (Config.busyWord s t)
  | .dmemWord _ => .data32 (Config.busyWord s t)

/-- R38, R58, R242. A read of a target. It changes nothing but the count of draws, and that only when it draws. -/
def State.hostReadTarget (s : State) (t : Target) : State × Response :=
  if s.status.busy && unspecifiedWhileBusy t then
    ({ s with draws := s.draws + 1 }, s.freeRead t)
  else (s, s.readTarget t)

/-- R56, R210. A read at a window offset. -/
def State.hostReadAt (s : State) (off : Nat) (w : Width) : State × Response :=
  match target? s.params off w with
  | none => (s, .busError)
  | some t => s.hostReadTarget t

/-- R50. A bus read. -/
def State.hostRead (s : State) (addr : Nat) (w : Width) : State × Response :=
  match windowOffset? s.params addr with
  | none => (s, .notSelected)
  | some off => s.hostReadAt off w

/-! ## Writes -/

/-- The width of a write. -/
def WriteData.width : WriteData → Width
  | .byte _ => .byte
  | .half _ => .half
  | .word _ => .word

/-- The bytes of a write, in the order they stand in DMEM (R54). -/
def WriteData.bytes : WriteData → List Byte
  | .byte v => [v]
  | .half v => [v.extractLsb' 8 8, v.extractLsb' 0 8]
  | .word v => bytes32 v

/-- The word of a register write. Registers take words only (R56), so the other widths reach none. -/
def WriteData.value : WriteData → U32
  | .byte v => v.setWidth 32
  | .half v => v.setWidth 32
  | .word v => v

/-- R241. A CMD write that arrives while BUSY = 1 is dropped. -/
def State.loseCommand (s : State) : State := { s with status := { s.status with cmdlost := true } }

/-- R39, R243. Another write that arrives while BUSY = 1 is dropped. -/
def State.loseWrite (s : State) : State := { s with status := { s.status with wlost := true } }

/-- R33. A write to STATUS, at any time. -/
def State.writeStatus (s : State) (v : U32) : State := { s with status := statusWritten s.status v }

/-- R32, R33, R39, R83, R241, R243. A write to a target. -/
def State.hostWriteTarget (s : State) (t : Target) (d : WriteData) : State :=
  match t with
  | .reg .status => s.writeStatus d.value
  | .reg .cmd => if s.status.busy then s.loseCommand else s.accept d.value
  | .reg r => if s.status.busy then s.loseWrite else s.writeReg r d.value
  | .dmemByte a => if s.status.busy then s.loseWrite else s.storeBytes a d.bytes
  | .dmemWord a => if s.status.busy then s.loseWrite else s.storeBytes a d.bytes

/-- R56, R210. A write at a window offset. -/
def State.hostWriteAt (s : State) (off : Nat) (d : WriteData) : State × Response :=
  match target? s.params off d.width with
  | none => (s, .busError)
  | some t => (s.hostWriteTarget t d, .written)

/-- R50. A bus write. -/
def State.hostWrite (s : State) (addr : Nat) (d : WriteData) : State × Response :=
  match windowOffset? s.params addr with
  | none => (s, .notSelected)
  | some off => s.hostWriteAt off d

/-! ## The host's next access -/

/-- The host goes on to the accesses `rest`, with the bus's answer recorded. -/
def State.answered (s : State) (rest : List HostOp) (r : Response) : State :=
  { s with host := rest, log := r :: s.log }

/-- R20, R61, R76. The host performs its next access, whole; with none left it does nothing. `wait` stays next until BUSY
reads 0. A reset leaves the state of R230 and unspecified DMEM (a fresh draw of a free sequence), whatever was in flight (R231). -/
def State.hostStep (s : State) : State :=
  match s.host with
  | [] => s
  | .read addr w :: rest => (s.hostRead addr w).1.answered rest (s.hostRead addr w).2
  | .write addr d :: rest => (s.hostWrite addr d).1.answered rest (s.hostWrite addr d).2
  | .wait :: rest =>
    (s.hostRead (s.params.base + 0x004) .word).1.answered (if s.status.busy then .wait :: rest else rest)
      (s.hostRead (s.params.base + 0x004) .word).2
  | .reset :: rest => State.afterReset s.params (Config.sourceAfterReset s) s.draws rest s.log

end Sys2Proof.Machine
end

