-- ==== Sys2Proof/Machine/KeySchedule.lean ====
section
/-! DEFINITION. The key schedule generator (spec/41_key_schedule.md): the schedule of one key, the two multi-key
combinations, and the four commands that store them into RKS. -/

namespace Sys2Proof.Machine

/-! ## Functions -/

/-- R106. The round key of `C || D`: its eight bytes, each of six selected bits in bits 5:0, bits 7:6 zero. -/
def packByte (cd : BitVec 56) (j : Nat) : U64 :=
  permute 64 ((pc2vTable.drop (6 * j)).take 6) cd <<< (56 - 8 * j)

/-- R106. `pack(C || D)`. -/
def pack (cd : BitVec 56) : U64 :=
  (List.range 8).foldl (fun rk j => rk ||| packByte cd j) 0#64

/-- R120. The rounds of the forward schedule: rotate both halves by the round's amount, cumulatively, and pack. -/
def scheduleRounds : List Nat → BitVec 28 → BitVec 28 → List U64
  | [], _, _ => []
  | r :: rs, c, d =>
    pack (c.rotateLeft r ++ d.rotateLeft r) :: scheduleRounds rs (c.rotateLeft r) (d.rotateLeft r)

/-- One round key per rotation amount. -/
theorem length_scheduleRounds (rs : List Nat) (c d : BitVec 28) :
    (scheduleRounds rs c d).length = rs.length := by
  induction rs generalizing c d with
  | nil => rfl
  | cons r rs ih => simp [scheduleRounds, ih]

/-- R103. C0 of a key: entries 1 to 28 of PC1. -/
def keyC (key : U64) : BitVec 28 := (permute 56 pc1Table key).extractLsb' 28 28

/-- R103. D0 of a key: entries 29 to 56 of PC1. -/
def keyD (key : U64) : BitVec 28 := (permute 56 pc1Table key).extractLsb' 0 28

/-- R120. `schedule(key, Forward)`. -/
def scheduleF (key : U64) : RoundKeySet :=
  ⟨(scheduleRounds rotTable (keyC key) (keyD key)).toArray, by simp [length_scheduleRounds, rotTable]⟩

/-- R122. `schedule(key, Reverse)`: the forward sequence, index-reversed. -/
def scheduleR (key : U64) : RoundKeySet :=
  ⟨(scheduleF key).toList.reverse.toArray, by simp⟩

/-- R160. The Round Key Sets of a chain, one constructor per key count. -/
inductive Schedules where
  | oneKey (s0 : RoundKeySet)
  | twoKey (s0 s1 : RoundKeySet)
  | threeKey (s0 s1 s2 : RoundKeySet)
  deriving DecidableEq, Repr

/-- R124. The forward-biased combination: key 0 Forward, key 1 Reverse, key 2 Forward, in slots 0, 1, 2. -/
def combineF (K : Vector U64 3) : KeyCount → Schedules
  | .oneKey => .oneKey (scheduleF K[0])
  | .twoKey => .twoKey (scheduleF K[0]) (scheduleR K[1])
  | .threeKey => .threeKey (scheduleF K[0]) (scheduleR K[1]) (scheduleF K[2])

/-- R126. The reverse-biased combination: key 0 Reverse, key 1 Forward, key 2 Reverse; with three keys, key 2's schedule
stands in slot 0 and key 0's in slot 2 (90 C1). -/
def combineR (K : Vector U64 3) : KeyCount → Schedules
  | .oneKey => .oneKey (scheduleR K[0])
  | .twoKey => .twoKey (scheduleR K[0]) (scheduleF K[1])
  | .threeKey => .threeKey (scheduleR K[2]) (scheduleF K[1]) (scheduleR K[0])

/-- R129, R130. Slots 0 .. N−1 stored into RKS[0 .. N−1] with their tags: the slots at even indices in order `even`, the
slot at index 1 in order `odd`. Sets and tags at N and above stay. -/
def State.storeSchedules (s : State) (even odd : Direction) : Schedules → State
  | .oneKey s0 => s.writeRks 0 even s0
  | .twoKey s0 s1 => (s.writeRks 0 even s0).writeRks 1 odd s1
  | .threeKey s0 s1 s2 => ((s.writeRks 0 even s0).writeRks 1 odd s1).writeRks 2 even s2

/-! ## Commands -/

/-- R127. KSCHED_F. -/
def execKschedF (set ksel : BitVec 2) (s : State) : Host.Outcome State Fault Refusal :=
  match index3? set, index3? ksel with
  | some j, some k => (s.writeRks j .forward (scheduleF s.keys[k])).succeed
  | _, _ => s.raise .illegalCommand

/-- R128. KSCHED_R. -/
def execKschedR (set ksel : BitVec 2) (s : State) : Host.Outcome State Fault Refusal :=
  match index3? set, index3? ksel with
  | some j, some k => (s.writeRks j .reverse (scheduleR s.keys[k])).succeed
  | _, _ => s.raise .illegalCommand

/-- R129. KCOMB_F. -/
def execKcombF (s : State) : Host.Outcome State Fault Refusal :=
  match keyCount? s.kcnt with
  | some n => (s.storeSchedules .forward .reverse (combineF s.keys n)).succeed
  | none => s.raise .keyCount

/-- R130. KCOMB_R. -/
def execKcombR (s : State) : Host.Outcome State Fault Refusal :=
  match keyCount? s.kcnt with
  | some n => (s.storeSchedules .reverse .forward (combineR s.keys n)).succeed
  | none => s.raise .keyCount

end Sys2Proof.Machine
end

