-- ==== Sys2Proof/Machine/Transform.lean ====
section
/-! DEFINITION. The 16-round Feistel engine (spec/42_block_transform.md) and XFORM. -/

namespace Sys2Proof.Machine

/-- R101. `IP(v)`. -/
def initialPermutation (v : U64) : U64 := permute 64 ipTable v

/-- R102. `IP_INV(v)`. -/
def inversePermutation (v : U64) : U64 := permute 64 ipInvTable v

/-- R140. The first expansion value: Low rotated left by 29, with the round key's bits 63:32. -/
def expansion1 (low : U32) (rk : U64) : U32 := low.rotateLeft 29 ^^^ rk.extractLsb' 32 32

/-- R140. The second expansion value: Low rotated left by 1, with the round key's bits 31:0. -/
def expansion2 (low : U32) (rk : U64) : U32 := low.rotateLeft 1 ^^^ rk.extractLsb' 0 32

/-- R140. The round function: eight table entries, indexed by the slices at bits 24, 16, 8 and 0, joined by OR. -/
def roundFunction (low : U32) (rk : U64) : U32 :=
  spLookup sp1 (slice6 (expansion1 low rk) 24) ||| spLookup sp3 (slice6 (expansion1 low rk) 16)
    ||| spLookup sp5 (slice6 (expansion1 low rk) 8) ||| spLookup sp7 (slice6 (expansion1 low rk) 0)
    ||| spLookup sp2 (slice6 (expansion2 low rk) 24) ||| spLookup sp4 (slice6 (expansion2 low rk) 16)
    ||| spLookup sp6 (slice6 (expansion2 low rk) 8) ||| spLookup sp8 (slice6 (expansion2 low rk) 0)

/-- R35. The Feistel half-registers inside a transform. -/
structure Halves where
  high : U32
  low : U32
  deriving DecidableEq, Repr

/-- R141. The round step: new High = old Low, new Low = High XOR round output. -/
def feistelRound (h : Halves) (rk : U64) : Halves :=
  { high := h.low, low := h.high ^^^ roundFunction h.low rk }

/-- R142. The halves a block enters the rounds with. -/
def splitHalves (v : U64) : Halves := { high := v.extractLsb' 32 32, low := v.extractLsb' 0 32 }

/-- R142. `transform(block, roundKeys)`: IP, sixteen rounds, the halves swapped, IP_INV. -/
def transform (x : U64) (K : RoundKeySet) : U64 :=
  let h := K.toList.foldl feistelRound (splitHalves (initialPermutation x))
  inversePermutation (h.low ++ h.high)

/-- R144. XFORM. -/
def execXform (set : BitVec 2) (s : State) : Host.Outcome State Fault Refusal :=
  match index3? set with
  | some j => (s.writeBlk (transform s.blk s.rks[j])).succeed
  | none => s.raise .illegalCommand

end Sys2Proof.Machine
end

