-- ==== Sys2Proof/Machine/Invoke.lean ====
section
/-! DEFINITION. The multi-key chaining multiplexer (spec/43_chained_invocation.md) and INVOKE. -/

namespace Sys2Proof.Machine

/-- R160, R161. `invoke(block, schedules, keyCount)`: the fixed stage sequence of each key count, every stage the forward
transform. Two keys reuse schedule 0 for the third stage. -/
def invoke (x : U64) : Schedules → U64
  | .oneKey s0 => transform x s0
  | .twoKey s0 s1 => transform (transform (transform x s0) s1) s0
  | .threeKey s0 s1 s2 => transform (transform (transform x s0) s1) s2

/-- R162. The sets of RKS that INVOKE reads under a key count, as they stand. -/
def storedSchedules (rks : Vector RoundKeySet 3) : KeyCount → Schedules
  | .oneKey => .oneKey rks[0]
  | .twoKey => .twoKey rks[0] rks[1]
  | .threeKey => .threeKey rks[0] rks[1] rks[2]

/-- R162. INVOKE. -/
def execInvoke (s : State) : Host.Outcome State Fault Refusal :=
  match keyCount? s.kcnt with
  | some n => (s.writeBlk (invoke s.blk (storedSchedules s.rks n))).succeed
  | none => s.raise .keyCount

end Sys2Proof.Machine
end

