-- ==== Sys2Proof/Machine/Cbc.lean ====
section
/-! DEFINITION. The CBC driver with its partial-block XOR (spec/44_cbc.md), CBC_ENC and CBC_DEC. -/

namespace Sys2Proof.Machine

/-- What the driver makes of a buffer: the output bytes and the final chaining value. -/
structure CbcResult where
  bytes : List Byte
  chain : U64
  deriving DecidableEq, Repr

/-- R177, R182. The trailing bytes XORed with the leading bytes of the keystream block; none when there is no tail. -/
def xorTail (keystream : U64) (tail : List Byte) : List Byte :=
  List.zipWith (· ^^^ ·) tail (store64 keystream)

/-- R175, R177. Encryption of `nfull` full blocks and then the tail, `chain` the previous output block or IV. -/
def encryptBlocks (S : Schedules) : Nat → U64 → List Byte → CbcResult
  | 0, chain, pt => { bytes := xorTail (invoke chain S) pt, chain := chain }
  | nfull + 1, chain, pt =>
    let c := invoke (load64 (pt.take 8) ^^^ chain) S
    let rest := encryptBlocks S nfull c (pt.drop 8)
    { bytes := store64 c ++ rest.bytes, chain := rest.chain }

/-- R180, R182. Decryption of `nfull` full blocks under `SR` and then the tail under the forward-biased `SF`, `chain` the
previous ciphertext block or IV. -/
def decryptBlocks (SR SF : Schedules) : Nat → U64 → List Byte → CbcResult
  | 0, chain, ct => { bytes := xorTail (invoke chain SF) ct, chain := chain }
  | nfull + 1, chain, ct =>
    let c := load64 (ct.take 8)
    let rest := decryptBlocks SR SF nfull c (ct.drop 8)
    { bytes := store64 (invoke c SR ^^^ chain) ++ rest.bytes, chain := rest.chain }

/-- R170, R174, R177. `cbc_encrypt(Pt, K, N, iv)`. -/
def cbcEncrypt (K : Vector U64 3) (n : KeyCount) (iv : U64) (pt : List Byte) : CbcResult :=
  encryptBlocks (combineF K n) (pt.length / 8) iv pt

/-- R170, R179, R182. `cbc_decrypt(Ct, K, N, iv)`. -/
def cbcDecrypt (K : Vector U64 3) (n : KeyCount) (iv : U64) (ct : List Byte) : CbcResult :=
  decryptBlocks (combineR K n) (combineF K n) (ct.length / 8) iv ct

/-- R171, R178, R183. The command around a driver: the checks, the whole input read, the whole output written, CHAIN. -/
def State.runCbc (s : State) (driver : Vector U64 3 → KeyCount → U64 → List Byte → CbcResult) :
    Host.Outcome State Fault Refusal :=
  match cbcOperands s with
  | .error e => s.raise e
  | .ok o =>
    match s.memRead o.src o.length with
    | none => .fault (.dmemOutOfRange o.src o.length)
    | some input =>
      let r := driver s.keys o.count s.iv input
      match s.memWrite o.dst r.bytes with
      | none => .fault (.dmemOutOfRange o.dst r.bytes.length)
      | some t => (t.writeChain r.chain).succeed

/-- R178. CBC_ENC. -/
def execCbcEnc (s : State) : Host.Outcome State Fault Refusal := s.runCbc cbcEncrypt

/-- R183. CBC_DEC. -/
def execCbcDec (s : State) : Host.Outcome State Fault Refusal := s.runCbc cbcDecrypt

end Sys2Proof.Machine
end

