-- ==== Sys2Proof/Machine/Dispatch.lean ====
section
/-! DEFINITION. From a command to its meaning: the completion step of R70, one arm per command. -/

namespace Sys2Proof.Machine

def exec (i : Instr) (s : State) : Host.Outcome State Fault Refusal :=
  match i with
  | .kschedF set ksel => Sys2Proof.Machine.execKschedF set ksel s
  | .kschedR set ksel => Sys2Proof.Machine.execKschedR set ksel s
  | .kcombF => Sys2Proof.Machine.execKcombF s
  | .kcombR => Sys2Proof.Machine.execKcombR s
  | .xform set => Sys2Proof.Machine.execXform set s
  | .invoke => Sys2Proof.Machine.execInvoke s
  | .cbcEnc => Sys2Proof.Machine.execCbcEnc s
  | .cbcDec => Sys2Proof.Machine.execCbcDec s

end Sys2Proof.Machine
end

