-- ==== Sys2Proof/Machine/Sequencer.lean ====
section
/-! DEFINITION. What one step does (R20, R61, R70): the core completes the command in flight when its latency has run out;
otherwise the host performs its next access. There is no program counter and no fetch from memory (R21): the command the
core runs is the word in CMD. -/

namespace Sys2Proof.Machine

/-- R70, R74. The completion step of the command in flight: the command CMD encodes, or IllegalCommand. -/
def runCommand (s : State) : Host.Outcome State Fault Refusal :=
  match decode s.cmd with
  | .ok i => exec i s
  | .error _ => s.raise .illegalCommand

/-- R245. A command in flight with `n` steps of its latency left. -/
def State.tick (s : State) (n : Nat) : State := { s with latencyLeft := n }

/-- While a command is in flight, each step before its completion is one host access (none if the host has none left), and
uses up one of its latency (R245). With no command in flight the core takes no step (R20). -/
def advance (s : State) : Host.Outcome State Fault Refusal :=
  if s.status.busy then
    match s.latencyLeft with
    | 0 => runCommand s
    | n + 1 => .next (s.tick n).hostStep
  else .next s.hostStep

/-- The word `w` as the command in flight, accepted as R70 says and about to complete. -/
def State.withCommand (s : State) (w : U32) : State :=
  { s with cmd := w, status := statusAccepted s.status, latencyLeft := 0 }

end Sys2Proof.Machine
end

