-- ==== Sys2Proof/Machine/Classical.lean ====
section
/-! DEFINITION. The original design the core must reproduce (R1, R2): DES in its classical bit-serial form, from the
classical tables PC2, S1 to S8, P and E (R105, R107, R108, R112). The hardware stores none of these tables (R100) and no
command runs this text: it is what the fused tables and the round-key layout are claimed to compute (R109, R143). -/

namespace Sys2Proof.Machine

/-- R105. The classical 48-entry subkey selection over `C || D`. -/
def pc2Table : List Nat := [
  14, 17, 11, 24,  1,  5,
   3, 28, 15,  6, 21, 10,
  23, 19, 12,  4, 26,  8,
  16,  7, 27, 20, 13,  2,
  41, 52, 31, 37, 47, 55,
  30, 40, 51, 45, 33, 48,
  44, 49, 39, 56, 34, 53,
  46, 42, 50, 36, 29, 32 ]

/-- R107. S1, its four rows of sixteen. -/
def sBox1 : List Nat := [
  14,  4, 13,  1,  2, 15, 11,  8,  3, 10,  6, 12,  5,  9,  0,  7,
   0, 15,  7,  4, 14,  2, 13,  1, 10,  6, 12, 11,  9,  5,  3,  8,
   4,  1, 14,  8, 13,  6,  2, 11, 15, 12,  9,  7,  3, 10,  5,  0,
  15, 12,  8,  2,  4,  9,  1,  7,  5, 11,  3, 14, 10,  0,  6, 13 ]

/-- R107. S2, its four rows of sixteen. -/
def sBox2 : List Nat := [
  15,  1,  8, 14,  6, 11,  3,  4,  9,  7,  2, 13, 12,  0,  5, 10,
   3, 13,  4,  7, 15,  2,  8, 14, 12,  0,  1, 10,  6,  9, 11,  5,
   0, 14,  7, 11, 10,  4, 13,  1,  5,  8, 12,  6,  9,  3,  2, 15,
  13,  8, 10,  1,  3, 15,  4,  2, 11,  6,  7, 12,  0,  5, 14,  9 ]

/-- R107. S3, its four rows of sixteen. -/
def sBox3 : List Nat := [
  10,  0,  9, 14,  6,  3, 15,  5,  1, 13, 12,  7, 11,  4,  2,  8,
  13,  7,  0,  9,  3,  4,  6, 10,  2,  8,  5, 14, 12, 11, 15,  1,
  13,  6,  4,  9,  8, 15,  3,  0, 11,  1,  2, 12,  5, 10, 14,  7,
   1, 10, 13,  0,  6,  9,  8,  7,  4, 15, 14,  3, 11,  5,  2, 12 ]

/-- R107. S4, its four rows of sixteen. -/
def sBox4 : List Nat := [
   7, 13, 14,  3,  0,  6,  9, 10,  1,  2,  8,  5, 11, 12,  4, 15,
  13,  8, 11,  5,  6, 15,  0,  3,  4,  7,  2, 12,  1, 10, 14,  9,
  10,  6,  9,  0, 12, 11,  7, 13, 15,  1,  3, 14,  5,  2,  8,  4,
   3, 15,  0,  6, 10,  1, 13,  8,  9,  4,  5, 11, 12,  7,  2, 14 ]

/-- R107. S5, its four rows of sixteen. -/
def sBox5 : List Nat := [
   2, 12,  4,  1,  7, 10, 11,  6,  8,  5,  3, 15, 13,  0, 14,  9,
  14, 11,  2, 12,  4,  7, 13,  1,  5,  0, 15, 10,  3,  9,  8,  6,
   4,  2,  1, 11, 10, 13,  7,  8, 15,  9, 12,  5,  6,  3,  0, 14,
  11,  8, 12,  7,  1, 14,  2, 13,  6, 15,  0,  9, 10,  4,  5,  3 ]

/-- R107. S6, its four rows of sixteen. -/
def sBox6 : List Nat := [
  12,  1, 10, 15,  9,  2,  6,  8,  0, 13,  3,  4, 14,  7,  5, 11,
  10, 15,  4,  2,  7, 12,  9,  5,  6,  1, 13, 14,  0, 11,  3,  8,
   9, 14, 15,  5,  2,  8, 12,  3,  7,  0,  4, 10,  1, 13, 11,  6,
   4,  3,  2, 12,  9,  5, 15, 10, 11, 14,  1,  7,  6,  0,  8, 13 ]

/-- R107. S7, its four rows of sixteen. -/
def sBox7 : List Nat := [
   4, 11,  2, 14, 15,  0,  8, 13,  3, 12,  9,  7,  5, 10,  6,  1,
  13,  0, 11,  7,  4,  9,  1, 10, 14,  3,  5, 12,  2, 15,  8,  6,
   1,  4, 11, 13, 12,  3,  7, 14, 10, 15,  6,  8,  0,  5,  9,  2,
   6, 11, 13,  8,  1,  4, 10,  7,  9,  5,  0, 15, 14,  2,  3, 12 ]

/-- R107. S8, its four rows of sixteen. -/
def sBox8 : List Nat := [
  13,  2,  8,  4,  6, 15, 11,  1, 10,  9,  3, 14,  5,  0, 12,  7,
   1, 15, 13,  8, 10,  3,  7,  4, 12,  5,  6, 11,  0, 14,  9,  2,
   7, 11,  4,  1,  9, 12, 14,  2,  0,  6, 10, 13, 15,  3,  5,  8,
   2,  1, 14,  7,  4, 10,  8, 13, 15, 12,  9,  0,  3,  5,  6, 11 ]

/-- R108. The classical 32-bit round permutation. -/
def pTable : List Nat := [
  16,  7, 20, 21, 29, 12, 28, 17,
   1, 15, 23, 26,  5, 18, 31, 10,
   2,  8, 24, 14, 32, 27,  3,  9,
  19, 13, 30,  6, 22, 11,  4, 25 ]

/-- R112. The classical expansion of a 32-bit half to 48 bits. -/
def expansionTable : List Nat := [
  32,  1,  2,  3,  4,  5,
   4,  5,  6,  7,  8,  9,
   8,  9, 10, 11, 12, 13,
  12, 13, 14, 15, 16, 17,
  16, 17, 18, 19, 20, 21,
  20, 21, 22, 23, 24, 25,
  24, 25, 26, 27, 28, 29,
  28, 29, 30, 31, 32,  1 ]

/-- R107. An S-box at a 6-bit input: row `x5 x0`, column `x4 x3 x2 x1`. -/
def sBoxAt (S : List Nat) (x : BitVec 6) : BitVec 4 :=
  BitVec.ofNat 4 (S.getD (16 * (2 * (x.extractLsb' 5 1).toNat + (x.extractLsb' 0 1).toNat) + (x.extractLsb' 1 4).toNat) 0)

/-- R107. The eight S-boxes on the eight 6-bit groups of a 48-bit value, joined, S1 most significant. -/
def sBoxes (v : BitVec 48) : U32 :=
  sBoxAt sBox1 (v.extractLsb' 42 6) ++ sBoxAt sBox2 (v.extractLsb' 36 6) ++ sBoxAt sBox3 (v.extractLsb' 30 6)
    ++ sBoxAt sBox4 (v.extractLsb' 24 6) ++ sBoxAt sBox5 (v.extractLsb' 18 6) ++ sBoxAt sBox6 (v.extractLsb' 12 6)
    ++ sBoxAt sBox7 (v.extractLsb' 6 6) ++ sBoxAt sBox8 (v.extractLsb' 0 6)

/-- R108. `P(v)`. -/
def roundPermutation (v : U32) : U32 := permute 32 pTable v

/-- R143. The classical round function `P(S(E(R) ^ K))`. -/
def classicalRoundFunction (r : U32) (k : BitVec 48) : U32 :=
  roundPermutation (sBoxes (permute 48 expansionTable r ^^^ k))

/-- R104, R105. The classical subkey of round `i`: C0 and D0 rotated by the sum of the amounts of rounds 0 to `i`, then PC2. -/
def classicalSubkey (key : U64) (i : Nat) : BitVec 48 :=
  permute 48 pc2Table
    ((keyC key).rotateLeft (rotTable.take (i + 1)).sum ++ (keyD key).rotateLeft (rotTable.take (i + 1)).sum)

/-- R143. DES under a list of subkeys: IP, one classical round per subkey, the halves swapped, the inverse of IP. -/
def classicalDes (subkeys : List (BitVec 48)) (x : U64) : U64 :=
  let h := subkeys.foldl
    (fun h k => { high := h.low, low := h.high ^^^ classicalRoundFunction h.low k })
    (splitHalves (initialPermutation x))
  inversePermutation (h.low ++ h.high)

/-- R143. DES encryption: the subkeys of rounds 0 to 15. -/
def desEncrypt (key x : U64) : U64 := classicalDes ((List.range 16).map (classicalSubkey key)) x

/-- R143. DES decryption: the subkeys in the opposite order. -/
def desDecrypt (key x : U64) : U64 := classicalDes ((List.range 16).map (classicalSubkey key)).reverse x

end Sys2Proof.Machine
end

