-- ==== Sys2Proof/Machine/HostProgram.lean ====
section
/-! DEFINITION. The host-program notation of R76: its forms and pseudo-commands, each the list of accesses it stands for,
at window offsets of the instance with parameters `p`; and a run of several steps. -/

namespace Sys2Proof.Machine

/-- `wr32 OFF, V`. -/
def wr32 (p : Params) (off : Nat) (v : U32) : List HostOp := [.write (p.base + off) (.word v)]

/-- `wr8 OFF, V`. -/
def wr8 (p : Params) (off : Nat) (v : Byte) : List HostOp := [.write (p.base + off) (.byte v)]

/-- `rd32 OFF`; the value read is the bus's answer in `State.log`. -/
def rd32 (p : Params) (off : Nat) : List HostOp := [.read (p.base + off) .word]

/-- `MNEMONIC [set=S] [key=K]`. -/
def writeCommand (p : Params) (i : Instr) : List HostOp := wr32 p 0x000 (encode i)

/-- `wait`. -/
def waitIdle : List HostOp := [.wait]

/-- `wr64 OFF, V`. -/
def wr64 (p : Params) (off : Nat) (v : U64) : List HostOp :=
  wr32 p off (v.extractLsb' 32 32) ++ wr32 p (off + 4) (v.extractLsb' 0 32)

/-- `rd64 OFF`. -/
def rd64 (p : Params) (off : Nat) : List HostOp := rd32 p off ++ rd32 p (off + 4)

/-- `wrbuf A, bytes`. -/
def wrbuf (p : Params) (a : Nat) : List Byte → List HostOp
  | [] => []
  | b :: bs => wr8 p (0x1000 + a) b ++ wrbuf p (a + 1) bs

/-- `ack`: clear DONE, CMDLOST and WLOST. -/
def ack (p : Params) : List HostOp := wr32 p 0x004 0x00000302#32

/-- `do MNEMONIC …`. -/
def doCommand (p : Params) (i : Instr) : List HostOp := writeCommand p i ++ waitIdle

/-- The host given the accesses `ops` to make next. -/
def State.withProgram (s : State) (ops : List HostOp) : State := { s with host := ops ++ s.host }

/-- `n` steps of the machine, ending at the first fault or refusal. -/
def steps : Nat → State → Host.Outcome State Fault Refusal
  | 0, s => .next s
  | n + 1, s =>
    match step s with
    | .next t => steps n t
    | .fault f => .fault f
    | .refused r => .refused r

end Sys2Proof.Machine
end

