-- ==== Sys2Proof/Machine/System.lean ====
section
/-! DEFINITION. Several instances (R9 `NUM_INSTANCES`, R211): copies of the whole block that share nothing but the constant
tables. Which instance steps next is the caller's to say. -/

namespace Sys2Proof.Machine

/-- The instances of a system. -/
abbrev System := List State

/-- R230. A system of instances with the given parameters, right after reset: instance `k` draws its free values from
sequence `k`, so that nothing relates the unspecified values of two instances (DESIGN CHOICE, notes/assumptions/10.md). -/
def System.reset (ps : List Params) : System :=
  ps.mapIdx (fun k p => State.afterReset p k 0 [] [])

/-- Instance `k` takes one step; a system without an instance `k` stays as it is.

How the unspecified values of two instances relate (DMEM after reset, reads while BUSY = 1, latencies) the spec leaves open.
The model's choice (DESIGN CHOICE, notes/assumptions/10.md): every free value is drawn by the instance that steps, in its
own state alone; two instances draw related values only when their whole states are equal, `State.source` among them (for
DMEM after reset: when their `source` and `dmemDraw` are). `System.reset` gives each instance a `source` of its own. -/
def stepInstance (sys : System) (k : Nat) : Host.Outcome System Fault Refusal :=
  match sys[k]? with
  | none => .next sys
  | some s =>
    match step s with
    | .next t => .next (sys.set k t)
    | .fault f => .fault f
    | .refused r => .refused r

end Sys2Proof.Machine
end

