-- ==== Sys2Proof/Safety.lean ====
section
/-! DEFINITION. What holds in every state a run reaches. -/

namespace Sys2Proof.Machine

/-- R30, R106. Bits 7:6 of every byte of a round key are 0. -/
def paddingZero (rk : U64) : Prop := rk &&& 0xC0C0C0C0C0C0C0C0#64 = 0#64

/-- R50. DMEM in canonical form, every byte at an offset that exists. -/
structure DmemOk (s : State) : Prop where
  canonical : Memory.wf s.dmem
  exist : ∀ c ∈ s.dmem, c.1 < s.params.dmemBytes

/-- The invariant of the machine. -/
structure Inv (s : State) : Prop where
  /-- R9. The parameters are legal. -/
  params : s.params.Legal
  /-- R50. DMEM is canonical and inside its bounds. -/
  dmem : DmemOk s
  /-- R30. Every round key of the store has zero padding. -/
  padding : ∀ (j : Fin 3) (i : Fin 16), paddingZero s.rks[j][i]
  /-- R33, R70. While a command is in flight, DONE and ERR are 0. -/
  inFlight : s.status.busy = true → s.status.done = false ∧ s.status.err = .none
  /-- The model's own: a latency is pending only while a command is in flight. -/
  idle : s.status.busy = false → s.latencyLeft = 0
  /-- The model's own: the draw DMEM shows was taken before. -/
  drawn : s.dmemDraw < s.draws

end Sys2Proof.Machine
end

