-- ==== Sys2Proof/Certificates/Slice0/Obligations.lean ====
section
/-! DEFINITION. The statements about the model. Each says in its docstring which rule of spec/ it formalises or rests on. -/

open Sys2Proof Sys2Proof.Machine

namespace Sys2Proof.Statements

/-! ## Words the statements share -/

/-- `s` with the completion of a command recorded in STATUS: BUSY cleared, DONE set, ERR = `e`; CMDLOST and WLOST stay. -/
def completed (s : State) (e : ErrorCode) : State :=
  { s with status := { s.status with busy := false, done := true, err := e } }

/-- KCNT is one of the legal key counts 1, 2, 3 (R25). -/
def legalCount (kcnt : U32) : Prop := kcnt = 1#32 ∨ kcnt = 2#32 ∨ kcnt = 3#32

/-- R173. The range check of a CBC command fails. -/
def outOfRange (s : State) : Prop :=
  s.params.dmemBytes < s.src.toNat + s.len.toNat ∨ s.params.dmemBytes < s.dst.toNat + s.len.toNat

/-- R173. The overlap check of a CBC command fails. -/
def buffersOverlap (s : State) : Prop :=
  s.src ≠ s.dst ∧ s.src.toNat < s.dst.toNat + s.len.toNat ∧ s.dst.toNat < s.src.toNat + s.len.toNat

/-- The conditions under which a CBC command executes normally (R172, R125, R173). -/
structure CbcLegal (s : State) : Prop where
  positive : s.len ≠ 0#32
  signed : s.len.msb = false
  count : legalCount s.kcnt
  range : ¬ outOfRange s
  overlap : ¬ buffersOverlap s

/-- The round key of round `i` in closed form (R120, R104): C0 and D0 rotated by the sum of the amounts up to round `i`. -/
def roundKeyClosed (key : U64) (i : Nat) : U64 :=
  pack ((keyC key).rotateLeft (rotTable.take (i + 1)).sum ++ (keyD key).rotateLeft (rotTable.take (i + 1)).sum)

/-- The 64-bit block at DMEM offset `a` (R53). -/
def blockAt (s : State) (a : Nat) : U64 := load64 (s.dmemSlice a 8)

/-- The previous block of block `b`: IV for the first, block `b − 1` of `blocks` after it. -/
def previousBlock (iv : U64) (blocks : Nat → U64) : Nat → U64
  | 0 => iv
  | b + 1 => blocks b

/-- The schedules of a legal key count (R124). -/
def forwardBiased (s : State) : Schedules :=
  if s.kcnt = 1#32 then .oneKey (scheduleF s.keys[0])
  else if s.kcnt = 2#32 then .twoKey (scheduleF s.keys[0]) (scheduleR s.keys[1])
  else .threeKey (scheduleF s.keys[0]) (scheduleR s.keys[1]) (scheduleF s.keys[2])

/-- The schedules of a legal key count (R126). -/
def reverseBiased (s : State) : Schedules :=
  if s.kcnt = 1#32 then .oneKey (scheduleR s.keys[0])
  else if s.kcnt = 2#32 then .twoKey (scheduleR s.keys[0]) (scheduleF s.keys[1])
  else .threeKey (scheduleR s.keys[2]) (scheduleF s.keys[1]) (scheduleR s.keys[0])

/-- Every register and STATUS at the values R230 gives, and no command in flight. -/
def resetRegisters (t : State) : Prop :=
  t.cmd = 0#32 ∧ statusWord t.status = 0#32 ∧ t.status.busy = false ∧ (∀ k : Fin 3, t.keys[k] = 0#64) ∧ t.iv = 0#64 ∧
    t.kcnt = 0#32 ∧ t.len = 0#32 ∧ t.src = 0#32 ∧ t.dst = 0#32 ∧ t.blk = 0#64 ∧ t.chain = 0#64 ∧
    (∀ (j : Fin 3) (i : Fin 16), t.rks[j][i] = 0#64) ∧ t.rksDir = 0#3

end Sys2Proof.Statements

open Sys2Proof.Statements

/-! ## Encoding -/

/-- R71, R73. Decoding and encoding agree both ways: no bit of a command word is dropped, and a word has one meaning. -/
def Obligations.DecodeEncodeAgree : Prop :=
  (∀ i : Instr, i.wellFormed = true → decode (encode i) = .ok i) ∧
  (∀ (w : U32) (i : Instr), decode w = .ok i → i.wellFormed = true ∧ encode i = w)

/-- R73. Words written out from the opcode map, and illegal words of R74 and 95 V-ERR, V-KS-7, V-XF-3. -/
def Obligations.WordsOfTheOpcodeMap : Prop :=
  decode 0x00000001#32 = .ok (.kschedF 0 0) ∧ decode 0x000000A1#32 = .ok (.kschedF 2 2) ∧
  decode 0x00000012#32 = .ok (.kschedR 1 0) ∧ decode 0x00000042#32 = .ok (.kschedR 0 1) ∧
  decode 0x00000003#32 = .ok .kcombF ∧ decode 0x00000004#32 = .ok .kcombR ∧ decode 0x00000015#32 = .ok (.xform 1) ∧
  decode 0x00000006#32 = .ok .invoke ∧ decode 0x00000008#32 = .ok .cbcEnc ∧ decode 0x00000009#32 = .ok .cbcDec ∧
  decode 0x00000000#32 = .error .opcode ∧ decode 0x00000007#32 = .error .opcode ∧
  decode 0x0000000F#32 = .error .opcode ∧ decode 0x00000101#32 = .error .reservedBits ∧
  decode 0x00000031#32 = .error .setIndex ∧ decode 0x000000C1#32 = .error .keyIndex ∧
  decode 0x00000013#32 = .error .unusedField ∧ decode 0x00000045#32 = .error .unusedField

namespace Sys2Proof.Statements

/-- R74, its conditions (a) to (d) on the fields OP = w[3:0], SET = w[5:4], KSEL = w[7:6], RSVD = w[31:8], as numbers. -/
def illegalByRule (w : U32) : Prop :=
  w.toNat % 16 ∈ [0x0, 0x7, 0xA, 0xB, 0xC, 0xD, 0xE, 0xF] ∨
  w.toNat / 256 ≠ 0 ∨
  (w.toNat % 16 ∈ [0x1, 0x2, 0x5] ∧ w.toNat / 16 % 4 = 3) ∨
  (w.toNat % 16 ∈ [0x1, 0x2] ∧ w.toNat / 64 % 4 = 3) ∨
  (w.toNat % 16 ∈ [0x3, 0x4, 0x6, 0x8, 0x9] ∧ w.toNat / 16 % 4 ≠ 0) ∨
  (w.toNat % 16 ∈ [0x3, 0x4, 0x5, 0x6, 0x8, 0x9] ∧ w.toNat / 64 % 4 ≠ 0)

/-- R73. One match/mask row, and whether SET ≠ 3 and KSEL ≠ 3 are its field constraints. -/
structure Row where
  word : U32
  mask : U32
  setFree : Bool
  kselFree : Bool

/-- R73. The eight match/mask rows. -/
def opcodeRows : List Row :=
  [⟨0x00000001, 0xFFFFFF0F, true, true⟩, ⟨0x00000002, 0xFFFFFF0F, true, true⟩,
   ⟨0x00000003, 0xFFFFFFFF, false, false⟩, ⟨0x00000004, 0xFFFFFFFF, false, false⟩,
   ⟨0x00000005, 0xFFFFFFCF, true, false⟩, ⟨0x00000006, 0xFFFFFFFF, false, false⟩,
   ⟨0x00000008, 0xFFFFFFFF, false, false⟩, ⟨0x00000009, 0xFFFFFFFF, false, false⟩]

/-- A word inside a row that keeps its field constraints. -/
def Row.admits (r : Row) (w : U32) : Prop :=
  w &&& r.mask = r.word ∧ (r.setFree = true → w.toNat / 16 % 4 ≠ 3) ∧ (r.kselFree = true → w.toNat / 64 % 4 ≠ 3)

end Sys2Proof.Statements

/-- R74, whole. A word decodes to no command exactly when one of (a) to (d) holds, which is exactly when no match/mask row
admits it; and an accepted illegal word completes with ERR = 3, CMD kept, and no other effect. -/
def Obligations.IllegalWordsOfR74 : Prop :=
  (∀ w : U32, ((∀ i, decode w ≠ .ok i) ↔ illegalByRule w) ∧ (illegalByRule w ↔ ∀ r ∈ opcodeRows, ¬ r.admits w)) ∧
  (∀ s : State, s.status.busy = true → s.latencyLeft = 0 → illegalByRule s.cmd →
    step s = .next (completed s .illegalCommand) ∧
    (statusWord (completed s .illegalCommand).status).extractLsb' 4 4 = 3#4)

/-! ## Steps -/

/-- R70, R20, R61. The step of a command in flight whose latency has run out is `exec` of the command its word decodes to,
with nothing added around it; the word this pipeline places is such a command. Every other step is the host's next access: a
read or a write is `hostRead` or `hostWrite`, idle or in flight, with the answer recorded and the queue moved on; and with no
command in flight and nothing left for the host to do, a step changes nothing. (The queue, the record of answers and one step
of latency per access are the model's own, notes/assumptions/3.md and 5.md.) -/
def Obligations.StepRunsTheDecodedCommand : Prop :=
  (∀ (s : State) (i : Instr), s.status.busy = true → s.latencyLeft = 0 → decode s.cmd = .ok i → step s = exec i s) ∧
  (∀ (s : State) (nbits w : Nat) (i : Instr), decodeTableWord nbits w = some i →
    step (s.withFetchWord nbits w) = exec i (s.withFetchWord nbits w)) ∧
  (∀ (s : State) (addr : Nat) (w : Width) (rest : List HostOp), s.host = .read addr w :: rest →
    (s.status.busy = false → step s = .next { (s.hostRead addr w).1 with
      host := rest
      log := (s.hostRead addr w).2 :: s.log }) ∧
    (∀ n, s.status.busy = true → s.latencyLeft = n + 1 →
      step s = .next { (State.hostRead { s with latencyLeft := n } addr w).1 with
        host := rest
        log := (State.hostRead { s with latencyLeft := n } addr w).2 :: s.log })) ∧
  (∀ (s : State) (addr : Nat) (d : WriteData) (rest : List HostOp), s.host = .write addr d :: rest →
    (s.status.busy = false → step s = .next { (s.hostWrite addr d).1 with
      host := rest
      log := (s.hostWrite addr d).2 :: s.log }) ∧
    (∀ n, s.status.busy = true → s.latencyLeft = n + 1 →
      step s = .next { (State.hostWrite { s with latencyLeft := n } addr d).1 with
        host := rest
        log := (State.hostWrite { s with latencyLeft := n } addr d).2 :: s.log })) ∧
  (∀ s : State, s.status.busy = false → s.host = [] → step s = .next s)

/-- R70, R32. A word the host writes to CMD while BUSY = 0 is accepted: CMD holds it, BUSY = 1, DONE = 0, ERR = 0, CMDLOST
and WLOST stay, and nothing else of the machine changes. Its latency is a free value of the model (notes/assumptions/3.md),
and the queue and the record of answers are the model's own (notes/assumptions/5.md). -/
def Obligations.CommandWordIsAccepted : Prop :=
  ∀ (s : State) (w : U32) (rest : List HostOp), s.status.busy = false →
    s.host = .write (s.params.base + 0x000) (.word w) :: rest →
    step s = .next { s with
      cmd := w
      status := { s.status with busy := true, done := false, err := .none }
      latencyLeft := Config.latency s w
      draws := s.draws + 1
      host := rest
      log := .written :: s.log }

/-- R241. A CMD write while BUSY = 1 is dropped: CMD keeps the running word, nothing is started or queued, CMDLOST is set,
and the running command goes on. That the access uses one step of its latency, and that the queue moves on with the answer
recorded, is the model's choice (notes/assumptions/3.md and 5.md). -/
def Obligations.CommandWrittenWhileBusyIsDropped : Prop :=
  ∀ (s : State) (w : U32) (rest : List HostOp) (n : Nat), s.status.busy = true → s.latencyLeft = n + 1 →
    s.host = .write (s.params.base + 0x000) (.word w) :: rest →
    step s = .next { s with
      status := { s.status with cmdlost := true }
      latencyLeft := n
      host := rest
      log := .written :: s.log }

/-- R76 `wait`. While BUSY = 1 the poll reads STATUS and stays the host's next access; once BUSY = 0 it reads STATUS and is
done. Either way nothing else of the machine changes. That a poll is one step, uses one step of latency and stays at the head
of the queue is the model's choice (notes/assumptions/3.md and 5.md). -/
def Obligations.WaitPollsUntilIdle : Prop :=
  ∀ (s : State) (rest : List HostOp), s.host = .wait :: rest →
    (∀ n, s.status.busy = true → s.latencyLeft = n + 1 →
      step s = .next { s with latencyLeft := n, log := .data32 (statusWord s.status) :: s.log }) ∧
    (s.status.busy = false →
      step s = .next { s with host := rest, log := .data32 (statusWord s.status) :: s.log })

/-- R204, the machine as a whole. Every command, from every state, ends in the completion step: a next state with BUSY = 0
and DONE = 1, CMDLOST and WLOST untouched. -/
def Obligations.EveryCommandCompletes : Prop :=
  ∀ (i : Instr) (s : State), ∃ t, exec i s = .next t ∧
    t.status = { s.status with busy := false, done := true, err := t.status.err }

/-- R60, R204, R210. No step of the machine stops: there is no fault and no refusal in any state. -/
def Obligations.EveryStepAnswersNextState : Prop :=
  ∀ s : State, ∃ t, step s = .next t

/-- The invariant `Inv` (canonical DMEM within its bounds, zero padding in every stored round key, DONE and ERR 0 in
flight, legal parameters) is kept by every step from every state that has it. -/
def Obligations.StepKeepsTheInvariant : Prop :=
  ∀ s t : State, Inv s → step s = .next t → Inv t

/-- The invariant holds right after reset, and after a reset of any instance with legal parameters. -/
def Obligations.ResetHasTheInvariant : Prop :=
  Inv State.reset ∧ ∀ (p : Params) (source d : Nat) (ops : List HostOp) (log : List Response), p.Legal →
    Inv (State.afterReset p source d ops log)

/-- R245, R240. A command in flight completes, whatever the host does meanwhile short of a reset: BUSY is 0 and DONE is 1.
That this is after as many steps as its latency and one more, one access of the host each but the last, is the model's choice
(notes/assumptions/3.md). -/
def Obligations.CommandInFlightCompletes : Prop :=
  ∀ s : State, s.status.busy = true → (∀ op ∈ s.host, op ≠ .reset) →
    ∃ t, steps (s.latencyLeft + 1) s = .next t ∧ t.status.busy = false ∧ t.status.done = true

/-- R245, R39, R64, R242. What a command does depends neither on its latency nor on anything the host does while it runs,
short of a reset: every register, every Round Key Set, DMEM and ERR end as if it completed at once. The number of steps is
the model's choice (notes/assumptions/3.md). -/
def Obligations.ResultDoesNotDependOnLatency : Prop :=
  ∀ s t : State, s.status.busy = true → (∀ op ∈ s.host, op ≠ .reset) →
    steps (s.latencyLeft + 1) s = .next t →
    ∃ u, runCommand s = .next u ∧ t.blk = u.blk ∧ t.chain = u.chain ∧ t.rks = u.rks ∧ t.rksDir = u.rksDir ∧
      t.dmem = u.dmem ∧ t.source = u.source ∧ t.dmemDraw = u.dmemDraw ∧ t.cmd = u.cmd ∧ t.keys = u.keys ∧ t.iv = u.iv ∧ t.kcnt = u.kcnt ∧
      t.len = u.len ∧ t.src = u.src ∧ t.dst = u.dst ∧ t.params = u.params ∧ t.status.err = u.status.err

/-! ## Reset -/

/-- R230. Right after reset every register has its reset value, the machine is idle, and every byte of DMEM is unspecified
(a free value of the model). -/
def Obligations.ResetStateOfR230 : Prop :=
  resetRegisters State.reset ∧ (∀ a, State.reset.dmemByte a = Config.powerOnByte State.reset.source State.reset.dmemDraw a)

/-- R231, R230. A reset, with a command in flight or without, leaves the reset values and unspecified DMEM; no part of the
command's effect is applied. The model's own: BASE, DMEM_BYTES and the host's queue stay (notes/assumptions/11.md), DMEM takes
a fresh draw of a free sequence (2.md), and a command whose latency has run out completes before a reset that is next in the
queue (3.md); the latency is free, so a reset may land at any time before. -/
def Obligations.ResetAbandonsTheCommand : Prop :=
  ∀ (s : State) (rest : List HostOp), s.host = .reset :: rest → (s.status.busy = true → s.latencyLeft ≠ 0) →
    ∃ t, step s = .next t ∧ resetRegisters t ∧ (∀ a, t.dmemByte a = Config.powerOnByte t.source s.draws a) ∧
      t.params = s.params ∧ t.host = rest ∧ s.draws < t.draws

/-! ## The bus -/

/-- R80. The register map: each offset reads its register, and the read changes nothing. -/
def Obligations.RegisterMapOfR80 : Prop :=
  ∀ s : State, s.status.busy = false →
    s.hostRead (s.params.base + 0x000) .word = (s, .data32 s.cmd) ∧
    s.hostRead (s.params.base + 0x004) .word = (s, .data32 (statusWord s.status)) ∧
    s.hostRead (s.params.base + 0x008) .word = (s, .data32 s.kcnt) ∧
    s.hostRead (s.params.base + 0x00C) .word = (s, .data32 s.len) ∧
    s.hostRead (s.params.base + 0x010) .word = (s, .data32 s.src) ∧
    s.hostRead (s.params.base + 0x014) .word = (s, .data32 s.dst) ∧
    s.hostRead (s.params.base + 0x018) .word = (s, .data32 (s.iv.extractLsb' 32 32)) ∧
    s.hostRead (s.params.base + 0x01C) .word = (s, .data32 (s.iv.extractLsb' 0 32)) ∧
    (∀ k : Fin 3, s.hostRead (s.params.base + 0x020 + 8 * k.val) .word = (s, .data32 (s.keys[k].extractLsb' 32 32)) ∧
      s.hostRead (s.params.base + 0x024 + 8 * k.val) .word = (s, .data32 (s.keys[k].extractLsb' 0 32))) ∧
    s.hostRead (s.params.base + 0x038) .word = (s, .data32 (s.blk.extractLsb' 32 32)) ∧
    s.hostRead (s.params.base + 0x03C) .word = (s, .data32 (s.blk.extractLsb' 0 32)) ∧
    s.hostRead (s.params.base + 0x040) .word = (s, .data32 (s.chain.extractLsb' 32 32)) ∧
    s.hostRead (s.params.base + 0x044) .word = (s, .data32 (s.chain.extractLsb' 0 32)) ∧
    s.hostRead (s.params.base + 0x048) .word = (s, .data32 (s.rksDir.setWidth 32))

/-- R81, whole. Where the round keys read in the RKS window (with no command in flight; R242 says what a read returns while
one is). -/
def Obligations.RksWindowOfR81 : Prop :=
  (∀ (s : State) (j : Fin 3) (i : Fin 16), s.status.busy = false →
    s.hostRead (s.params.base + (0x400 + 0x80 * j.val + 8 * i.val)) .word = (s, .data32 (s.rks[j][i].extractLsb' 32 32)) ∧
    s.hostRead (s.params.base + (0x404 + 0x80 * j.val + 8 * i.val)) .word = (s, .data32 (s.rks[j][i].extractLsb' 0 32))) ∧
  regAt? 0x400 = some (.rks 0 0 .hi) ∧ regAt? 0x480 = some (.rks 1 0 .hi) ∧ regAt? 0x57C = some (.rks 2 15 .lo)

namespace Sys2Proof.Statements

/-- The RW register words of R80, CMD and STATUS apart. -/
def isRW : Reg → Bool
  | .kcnt => true
  | .len => true
  | .src => true
  | .dst => true
  | .iv _ => true
  | .key _ _ => true
  | .blk _ => true
  | .cmd => false
  | .status => false
  | .chain _ => false
  | .rksDir => false
  | .rks _ _ _ => false

end Sys2Proof.Statements

/-- R34, R38, R82. With no command in flight, a word written to an RW register reads back exactly; every other register word
(the other half of a 64-bit register among them) and every byte of DMEM stay. -/
def Obligations.WrittenRegisterReadsBack : Prop :=
  ∀ (s : State) (off : Nat) (r : Reg) (v : U32), s.status.busy = false → regAt? off = some r → isRW r = true →
    ∃ t, s.hostWrite (s.params.base + off) (.word v) = (t, .written) ∧
      t.hostRead (s.params.base + off) .word = (t, .data32 v) ∧
      (∀ r', r' ≠ r → t.readReg r' = s.readReg r') ∧ (∀ a, t.dmemByte a = s.dmemByte a)

/-- R83, whole. A write to an RO register word is ignored, without a bus error, and sets WLOST only while BUSY = 1; a write
to STATUS follows R33: at any time it clears the W1C bits written as 1 and changes nothing else. -/
def Obligations.ReadOnlyWritesAreIgnored : Prop :=
  (∀ (s : State) (off : Nat) (v : U32),
    off = 0x040 ∨ off = 0x044 ∨ off = 0x048 ∨ (0x400 ≤ off ∧ off < 0x580 ∧ off % 4 = 0) →
    s.hostWrite (s.params.base + off) (.word v) =
      (if s.status.busy then { s with status := { s.status with wlost := true } } else s, .written)) ∧
  (∀ (s : State) (v : U32), s.hostWrite (s.params.base + 0x004) (.word v) =
    ({ s with status := { s.status with
        done := s.status.done && !v.getLsbD 1
        cmdlost := s.status.cmdlost && !v.getLsbD 8
        wlost := s.status.wlost && !v.getLsbD 9 } }, .written))

/-- R33. STATUS as a word: BUSY in bit 0, DONE in bit 1, ERR in bits 7:4 with the numbers of R200, CMDLOST in bit 8, WLOST
in bit 9; bits 3:2 and 31:10 read 0. -/
def Obligations.StatusWordLayout : Prop :=
  ∀ st : Status,
    (statusWord st).getLsbD 0 = st.busy ∧ (statusWord st).getLsbD 1 = st.done ∧
    (statusWord st).extractLsb' 2 2 = 0#2 ∧
    (statusWord st).extractLsb' 4 4 =
      (match st.err with
        | .none => 0#4 | .length => 1#4 | .keyCount => 2#4 | .illegalCommand => 3#4 | .range => 4#4 | .overlap => 5#4) ∧
    (statusWord st).getLsbD 8 = st.cmdlost ∧ (statusWord st).getLsbD 9 = st.wlost ∧
    (statusWord st).extractLsb' 10 22 = 0#22

/-- R50, R56, R51, R210. The access rules. An address outside the window of 64 KiB at BASE is not this block's: no state
changes. Inside it, these accesses are bus errors: every access of 16 bits, every 8-bit access outside DMEM, and every
32-bit access that is misaligned or touches a reserved offset. A bus error answers busError and changes no state, BUSY or
not. (The model's own, notes/assumptions/8.md: the answer `notSelected` outside the window, a DESIGN CHOICE, and the bus error
of every 16-bit access, DEDUCED from R56. That a 32-bit access whose last bytes lie beyond DMEM touches a reserved offset is
the model's reading, 7.md; it says nothing new when DMEM_BYTES is a multiple of 4.) -/
def Obligations.BusAccessRules : Prop :=
  (∀ (s : State) (addr : Nat) (d : WriteData) (w : Width),
    (addr < s.params.base ∨ s.params.base + 0x10000 ≤ addr) →
    s.hostRead addr w = (s, .notSelected) ∧ s.hostWrite addr d = (s, .notSelected)) ∧
  (∀ (s : State) (off : Nat) (d : WriteData) (w : Width), off < 0x10000 →
    (target? s.params off w = none ↔
      ¬ ((w = .word ∧ off % 4 = 0 ∧ (off ≤ 0x04B ∨ (0x400 ≤ off ∧ off ≤ 0x57F) ∨
            (0x1000 ≤ off ∧ off + 4 ≤ 0x1000 + s.params.dmemBytes))) ∨
         (w = .byte ∧ 0x1000 ≤ off ∧ off < 0x1000 + s.params.dmemBytes))) ∧
    (target? s.params off w = none → s.hostRead (s.params.base + off) w = (s, .busError)) ∧
    (target? s.params off d.width = none → s.hostWrite (s.params.base + off) d = (s, .busError)))

/-- R54. DMEM through the bus with no command in flight, in big-endian lanes: what a 32-bit and an 8-bit read return, and
what a 32-bit and an 8-bit write store; every other byte, every register and the rest of the state stay. -/
def Obligations.DmemLanesOfR54 : Prop :=
  ∀ (s : State) (a : Nat) (v : U32) (b : Byte), s.status.busy = false → s.params.Legal →
    (a % 4 = 0 → a + 4 ≤ s.params.dmemBytes →
      s.hostRead (s.params.base + 0x1000 + a) .word =
        (s, .data32 ((s.dmemByte a).setWidth 32 <<< 24 ||| (s.dmemByte (a + 1)).setWidth 32 <<< 16 |||
          (s.dmemByte (a + 2)).setWidth 32 <<< 8 ||| (s.dmemByte (a + 3)).setWidth 32)) ∧
      ∃ t, s.hostWrite (s.params.base + 0x1000 + a) (.word v) = (t, .written) ∧
        t.dmemByte a = v.extractLsb' 24 8 ∧ t.dmemByte (a + 1) = v.extractLsb' 16 8 ∧
        t.dmemByte (a + 2) = v.extractLsb' 8 8 ∧ t.dmemByte (a + 3) = v.extractLsb' 0 8 ∧
        (∀ x, x < a ∨ a + 4 ≤ x → t.dmemByte x = s.dmemByte x) ∧ t = { s with dmem := t.dmem }) ∧
    (a < s.params.dmemBytes →
      s.hostRead (s.params.base + 0x1000 + a) .byte = (s, .data8 (s.dmemByte a)) ∧
      ∃ t, s.hostWrite (s.params.base + 0x1000 + a) (.byte b) = (t, .written) ∧
        t.dmemByte a = b ∧ (∀ x, x ≠ a → t.dmemByte x = s.dmemByte x) ∧ t = { s with dmem := t.dmem })

/-- R55, whole. The mixed-width view: after words `w0` at `a` and `w1` at `a + 4`, the block the core loads at `a` is
`w0 || w1`; a byte written at `a + i` then sets bits `63−8i : 56−8i` of that block and no other bit of it. -/
def Obligations.MixedWidthViewOfR55 : Prop :=
  ∀ (s : State) (a : Nat) (w0 w1 : U32), s.status.busy = false → s.params.Legal → a % 4 = 0 →
    a + 8 ≤ s.params.dmemBytes →
    ∃ t u, s.hostWrite (s.params.base + 0x1000 + a) (.word w0) = (t, .written) ∧
      t.hostWrite (s.params.base + 0x1000 + (a + 4)) (.word w1) = (u, .written) ∧
      blockAt u a = w0 ++ w1 ∧
      ∀ (i : Nat) (b : Byte), i < 8 → ∃ v, u.hostWrite (s.params.base + 0x1000 + (a + i)) (.byte b) = (v, .written) ∧
        (blockAt v a).extractLsb' (56 - 8 * i) 8 = b ∧
        ∀ k, k < 8 → k ≠ i → (blockAt v a).extractLsb' (56 - 8 * k) 8 = (w0 ++ w1).extractLsb' (56 - 8 * k) 8

/-- R39, whole. While BUSY = 1, a write to a register other than STATUS, or to DMEM, is dropped: the target keeps its value
and WLOST is set; a CMD write is R32's instead and sets CMDLOST. -/
def Obligations.WritesWhileBusyAreDropped : Prop :=
  ∀ (s : State) (off : Nat) (d : WriteData) (tgt : Target), s.status.busy = true → off < 0x10000 →
    target? s.params off d.width = some tgt → tgt ≠ .reg .status →
    s.hostWrite (s.params.base + off) d =
      (if tgt = .reg .cmd then { s with status := { s.status with cmdlost := true } }
       else { s with status := { s.status with wlost := true } }, .written)

/-- R242. Reads while BUSY = 1: STATUS, CMD and the configuration registers read their stored values; BLK, CHAIN, RKS_DIR,
the RKS window and DMEM read a free value of the access width (notes/assumptions/2.md), one draw per read. A read disturbs
nothing. -/
def Obligations.ReadsWhileBusy : Prop :=
  ∀ (s : State) (off : Nat) (w : Width) (tgt : Target), s.status.busy = true → off < 0x10000 →
    target? s.params off w = some tgt →
    (∀ r, tgt = .reg r → off < 0x038 →
      s.hostRead (s.params.base + off) w = (s, .data32 (s.readReg r))) ∧
    (∀ r, tgt = .reg r → 0x038 ≤ off →
      s.hostRead (s.params.base + off) w = ({ s with draws := s.draws + 1 }, .data32 (Config.busyWord s tgt))) ∧
    (∀ a, tgt = .dmemWord a →
      s.hostRead (s.params.base + off) w = ({ s with draws := s.draws + 1 }, .data32 (Config.busyWord s tgt))) ∧
    (∀ a, tgt = .dmemByte a →
      s.hostRead (s.params.base + off) w = ({ s with draws := s.draws + 1 }, .data8 (Config.busyByte s tgt)))

/-- R39, R58, R242, R243. No access of the host, a reset apart, changes anything under a running command but STATUS's W1C
bits: the key material, IV, counts, buffers, BLK, CHAIN and RKS stay. -/
def Obligations.HostCannotDisturbTheRunningCommand : Prop :=
  ∀ s : State, s.status.busy = true → (∀ rest, s.host ≠ .reset :: rest) →
    s.hostStep = { s with
      status := { s.status with
        done := s.hostStep.status.done, cmdlost := s.hostStep.status.cmdlost, wlost := s.hostStep.status.wlost }
      draws := s.hostStep.draws
      host := s.hostStep.host
      log := s.hostStep.log }

/-! ## The tables -/

/-- R102, whole. -/
def Obligations.InitialPermutationInverse : Prop :=
  ipInvTable = [40, 8, 48, 16, 56, 24, 64, 32, 39, 7, 47, 15, 55, 23, 63, 31, 38, 6, 46, 14, 54, 22, 62, 30,
    37, 5, 45, 13, 53, 21, 61, 29, 36, 4, 44, 12, 52, 20, 60, 28, 35, 3, 43, 11, 51, 19, 59, 27,
    34, 2, 42, 10, 50, 18, 58, 26, 33, 1, 41, 9, 49, 17, 57, 25] ∧
  (∀ v : U64, inversePermutation v = permute 64 ipInvTable v) ∧
  (∀ v : U64, inversePermutation (initialPermutation v) = v) ∧
  (∀ v : U64, initialPermutation (inversePermutation v) = v) ∧
  ipTable.Perm (List.range' 1 64) ∧ ipInvTable.Perm (List.range' 1 64)

/-- R109, R106. The stored tables are the ones the classical tables define: every fused entry is P of the S-box output in
its place, and PC2V is PC2 regrouped, byte by byte, in the group order 1, 3, 5, 7, 2, 4, 6, 8. -/
def Obligations.StoredTablesComeFromTheClassicalOnes : Prop :=
  (∀ x : BitVec 6,
    spLookup sp1 x = roundPermutation ((sBoxAt sBox1 x).setWidth 32 <<< 28) ∧
    spLookup sp2 x = roundPermutation ((sBoxAt sBox2 x).setWidth 32 <<< 24) ∧
    spLookup sp3 x = roundPermutation ((sBoxAt sBox3 x).setWidth 32 <<< 20) ∧
    spLookup sp4 x = roundPermutation ((sBoxAt sBox4 x).setWidth 32 <<< 16) ∧
    spLookup sp5 x = roundPermutation ((sBoxAt sBox5 x).setWidth 32 <<< 12) ∧
    spLookup sp6 x = roundPermutation ((sBoxAt sBox6 x).setWidth 32 <<< 8) ∧
    spLookup sp7 x = roundPermutation ((sBoxAt sBox7 x).setWidth 32 <<< 4) ∧
    spLookup sp8 x = roundPermutation ((sBoxAt sBox8 x).setWidth 32 <<< 0)) ∧
  pc2vTable = [1, 3, 5, 7, 2, 4, 6, 8].flatMap (fun g => (pc2Table.drop (6 * (g - 1))).take 6)

namespace Sys2Proof.Statements

/-- R110. The fused tables with their output masks `M_n`. -/
def maskedTables : List (SPTable × U32) :=
  [(sp1, 0x00808202), (sp2, 0x40084010), (sp3, 0x04010104), (sp4, 0x80401040), (sp5, 0x21040080), (sp6, 0x10202008),
   (sp7, 0x02100401), (sp8, 0x08020820)]

end Sys2Proof.Statements

/-- R110, whole. Every entry keeps to its table's mask; the masks are pairwise disjoint and cover all 32 bits; so the OR of
one entry from each table is their XOR. -/
def Obligations.OutputMasksOfR110 : Prop :=
  (∀ m ∈ maskedTables, ∀ x : BitVec 6, spLookup m.1 x &&& ~~~m.2 = 0#32) ∧
  (maskedTables.map (·.2)).Pairwise (fun m m' => m &&& m' = 0#32) ∧
  (maskedTables.map (·.2)).foldl (· ||| ·) 0#32 = 0xFFFFFFFF#32 ∧
  (∀ x1 x2 x3 x4 x5 x6 x7 x8 : BitVec 6,
    spLookup sp1 x1 ||| spLookup sp2 x2 ||| spLookup sp3 x3 ||| spLookup sp4 x4 ||| spLookup sp5 x5 ||| spLookup sp6 x6
        ||| spLookup sp7 x7 ||| spLookup sp8 x8 =
      spLookup sp1 x1 ^^^ spLookup sp2 x2 ^^^ spLookup sp3 x3 ^^^ spLookup sp4 x4 ^^^ spLookup sp5 x5 ^^^ spLookup sp6 x6
        ^^^ spLookup sp7 x7 ^^^ spLookup sp8 x8)

/-! ## The key schedule -/

/-- R104, whole. The table; every amount is 1 or 2; the rotations accumulate over the rounds; the entries sum to 28, so C
and D end where they began. -/
def Obligations.RotationsAccumulate : Prop :=
  rotTable = [1, 1, 2, 2, 2, 2, 2, 2, 1, 2, 2, 2, 2, 2, 2, 1] ∧ (∀ r ∈ rotTable, r = 1 ∨ r = 2) ∧
  (∀ (key : U64) (i : Fin 16), (scheduleF key)[i] = roundKeyClosed key i.val) ∧
  rotTable.sum = 28 ∧ (∀ c : BitVec 28, rotTable.foldl (fun c r => c.rotateLeft r) c = c)

/-- R122, whole. The reverse schedule is the forward sequence index-reversed, and undoes it. -/
def Obligations.ReverseScheduleUndoesForward : Prop :=
  (∀ (key : U64) (i : Fin 16), (scheduleR key)[i] = (scheduleF key)[15 - i.val]) ∧
  (∀ x key : U64, transform (transform x (scheduleF key)) (scheduleR key) = x)

/-- R121, whole. Parity bits have no effect on a schedule, and each command inherits this: run with keys that differ in
parity bits only, it ends in the same state but for those keys. The example keys give one Round Key Set. -/
def Obligations.ParityBitsHaveNoEffect : Prop :=
  (∀ key m : U64, m &&& ~~~0x0101010101010101#64 = 0#64 → scheduleF key = scheduleF (key ^^^ m)) ∧
  (∀ (i : Instr) (s : State) (K : Vector U64 3),
    (∀ k : Fin 3, (s.keys[k] ^^^ K[k]) &&& ~~~0x0101010101010101#64 = 0#64) →
    ∃ t, exec i s = .next t ∧ exec i { s with keys := K } = .next { t with keys := K }) ∧
  scheduleF 0x133457799BBCDFF1#64 = scheduleF 0x123556789ABDDEF0#64

/-- R123, whole. The degenerate keys. -/
def Obligations.DegenerateKeysOfR123 : Prop :=
  (∀ (key : U64) (i : Fin 16), key &&& ~~~0x0101010101010101#64 = 0#64 → (scheduleF key)[i] = 0#64) ∧
  (∀ (key : U64) (i : Fin 16), key ||| 0x0101010101010101#64 = 0xFFFFFFFFFFFFFFFF#64 →
    (scheduleF key)[i] = 0x3F3F3F3F3F3F3F3F#64) ∧
  (∀ key ∈ [0x0101010101010101#64, 0xFEFEFEFEFEFEFEFE#64, 0xE0E0E0E0F1F1F1F1#64, 0x1F1F1F1F0E0E0E0E#64],
    scheduleF key = scheduleR key)

/-! ## The key-schedule commands -/

/-- R127. KSCHED_F on every legal set and key register: a next state in which RKS[SET] is the forward schedule of
KEY[KSEL], in closed form, its tag 0, ERR = 0; the other sets and tags, every other register and every byte of DMEM stay. -/
def Obligations.KschedFResult : Prop :=
  ∀ (set ksel : BitVec 2) (s : State) (_ : set.toNat < 3) (_ : ksel.toNat < 3),
    ∃ t, exec (.kschedF set ksel) s = .next t ∧
      (∀ i : Fin 16, t.rks[set.toNat][i] = roundKeyClosed s.keys[ksel.toNat] i.val) ∧
      t.rksDir.getLsbD set.toNat = false ∧
      (∀ j : Fin 3, j.val ≠ set.toNat → t.rks[j] = s.rks[j] ∧ t.rksDir.getLsbD j.val = s.rksDir.getLsbD j.val) ∧
      t = { completed s .none with rks := t.rks, rksDir := t.rksDir } ∧ (∀ a, t.dmemByte a = s.dmemByte a)

/-- R128. KSCHED_R on every legal set and key register: RKS[SET] is the forward schedule index-reversed, its tag 1; the
rest as for KSCHED_F. -/
def Obligations.KschedRResult : Prop :=
  ∀ (set ksel : BitVec 2) (s : State) (_ : set.toNat < 3) (_ : ksel.toNat < 3),
    ∃ t, exec (.kschedR set ksel) s = .next t ∧
      (∀ i : Fin 16, t.rks[set.toNat][i] = roundKeyClosed s.keys[ksel.toNat] (15 - i.val)) ∧
      t.rksDir.getLsbD set.toNat = true ∧
      (∀ j : Fin 3, j.val ≠ set.toNat → t.rks[j] = s.rks[j] ∧ t.rksDir.getLsbD j.val = s.rksDir.getLsbD j.val) ∧
      t = { completed s .none with rks := t.rks, rksDir := t.rksDir } ∧ (∀ a, t.dmemByte a = s.dmemByte a)

/-- R127, R128, R144. The forms with SET = 3 or KSEL = 3 of KSCHED_F, KSCHED_R and XFORM: IllegalCommand, nothing written. -/
def Obligations.IndexThreeIsIllegal : Prop :=
  ∀ (set ksel : BitVec 2) (s : State), set = 3#2 ∨ ksel = 3#2 →
    exec (.kschedF set ksel) s = .next (completed s .illegalCommand) ∧
    exec (.kschedR set ksel) s = .next (completed s .illegalCommand) ∧
    exec (.xform 3#2) s = .next (completed s .illegalCommand)

/-- R129. KCOMB_F under each legal key count: sets 0 .. N−1 and their tags written (key 0 Forward, key 1 Reverse, key 2
Forward), sets and tags at N and above kept, ERR = 0; every other register and every byte of DMEM stay. Any other KCNT:
KeyCountError, nothing written. -/
def Obligations.KcombFResult : Prop :=
  ∀ s : State,
    (legalCount s.kcnt → ∃ t, exec .kcombF s = .next t ∧
      t.rks[0] = scheduleF s.keys[0] ∧ t.rksDir.getLsbD 0 = false ∧
      (if 2 ≤ s.kcnt.toNat then t.rks[1] = scheduleR s.keys[1] ∧ t.rksDir.getLsbD 1 = true
        else t.rks[1] = s.rks[1] ∧ t.rksDir.getLsbD 1 = s.rksDir.getLsbD 1) ∧
      (if s.kcnt = 3#32 then t.rks[2] = scheduleF s.keys[2] ∧ t.rksDir.getLsbD 2 = false
        else t.rks[2] = s.rks[2] ∧ t.rksDir.getLsbD 2 = s.rksDir.getLsbD 2) ∧
      t = { completed s .none with rks := t.rks, rksDir := t.rksDir } ∧ (∀ a, t.dmemByte a = s.dmemByte a)) ∧
    (¬ legalCount s.kcnt → exec .kcombF s = .next (completed s .keyCount))

/-- R130. KCOMB_R under each legal key count: with one or two keys, key 0 Reverse in set 0 and key 1 Forward in set 1; with
three, key 2 Reverse in set 0, key 1 Forward in set 1, key 0 Reverse in set 2; the rest as for KCOMB_F. -/
def Obligations.KcombRResult : Prop :=
  ∀ s : State,
    (legalCount s.kcnt → ∃ t, exec .kcombR s = .next t ∧
      (if s.kcnt = 3#32 then t.rks[0] = scheduleR s.keys[2] else t.rks[0] = scheduleR s.keys[0]) ∧
      t.rksDir.getLsbD 0 = true ∧
      (if 2 ≤ s.kcnt.toNat then t.rks[1] = scheduleF s.keys[1] ∧ t.rksDir.getLsbD 1 = false
        else t.rks[1] = s.rks[1] ∧ t.rksDir.getLsbD 1 = s.rksDir.getLsbD 1) ∧
      (if s.kcnt = 3#32 then t.rks[2] = scheduleR s.keys[0] ∧ t.rksDir.getLsbD 2 = true
        else t.rks[2] = s.rks[2] ∧ t.rksDir.getLsbD 2 = s.rksDir.getLsbD 2) ∧
      t = { completed s .none with rks := t.rks, rksDir := t.rksDir } ∧ (∀ a, t.dmemByte a = s.dmemByte a)) ∧
    (¬ legalCount s.kcnt → exec .kcombR s = .next (completed s .keyCount))

/-! ## The block transform -/

/-- R143 item 1, R2. The core computes DES: the table-driven round function under a packed subkey is the classical one, and
the transform under the forward and the reverse schedule is DES encryption and decryption. That the tables are those of DES
is the spec's choice from general knowledge (92 D1; notes/assumptions/4.md). -/
def Obligations.TransformIsDes : Prop :=
  (∀ (low : U32) (cd : BitVec 56), roundFunction low (pack cd) = classicalRoundFunction low (permute 48 pc2Table cd)) ∧
  (∀ x key : U64, transform x (scheduleF key) = desEncrypt key x ∧ transform x (scheduleR key) = desDecrypt key x)

/-- R143 items 2, 3 and 4. Each schedule undoes the other, and the all-zero Round Key Set undoes itself; complementing key
and block complements the result. -/
def Obligations.TransformLaws : Prop :=
  (∀ x key : U64, transform (transform x (scheduleF key)) (scheduleR key) = x ∧
    transform (transform x (scheduleR key)) (scheduleF key) = x) ∧
  (∀ x : U64, transform (transform x (Vector.replicate 16 0#64)) (Vector.replicate 16 0#64) = x) ∧
  (∀ x key : U64, transform (~~~x) (scheduleF (~~~key)) = ~~~(transform x (scheduleF key)))

/-- R140. The padding bits 7:6 of each byte of a round key have no effect on the round function. -/
def Obligations.PaddingBitsHaveNoEffect : Prop :=
  ∀ (low : U32) (rk rk' : U64), (rk ^^^ rk') &&& 0x3F3F3F3F3F3F3F3F#64 = 0#64 →
    roundFunction low rk = roundFunction low rk'

/-- R144. XFORM on every legal set: BLK becomes the transform of BLK under RKS[SET] as stored, ERR = 0; every other
register, RKS among them, and every byte of DMEM stay. With the forward schedule of a key stored there, BLK is DES-encrypted
under it. -/
def Obligations.XformResult : Prop :=
  ∀ (set : BitVec 2) (s : State) (_ : set.toNat < 3),
    ∃ t, exec (.xform set) s = .next t ∧ t = { completed s .none with blk := transform s.blk s.rks[set.toNat] } ∧
      (∀ key, s.rks[set.toNat] = scheduleF key → t.blk = desEncrypt key s.blk) ∧ (∀ a, t.dmemByte a = s.dmemByte a)

/-! ## Chained invocation -/

/-- R162, R160. INVOKE under each legal key count, with the stages spelled out; BLK the only register written, ERR = 0, every
byte of DMEM kept. Any other KCNT: KeyCountError, BLK unchanged. -/
def Obligations.InvokeResult : Prop :=
  ∀ s : State,
    (s.kcnt = 1#32 → exec .invoke s = .next { completed s .none with blk := transform s.blk s.rks[0] }) ∧
    (s.kcnt = 2#32 → exec .invoke s = .next { completed s .none with
      blk := transform (transform (transform s.blk s.rks[0]) s.rks[1]) s.rks[0] }) ∧
    (s.kcnt = 3#32 → exec .invoke s = .next { completed s .none with
      blk := transform (transform (transform s.blk s.rks[0]) s.rks[1]) s.rks[2] }) ∧
    (¬ legalCount s.kcnt → exec .invoke s = .next (completed s .keyCount)) ∧
    (∀ t, exec .invoke s = .next t → ∀ a, t.dmemByte a = s.dmemByte a)

/-- R163, whole. The reverse-biased chain inverts the forward-biased one (with the three-key chains spelled out in the
transforms of each key), two keys are three with the first reused, and equal keys reduce to one. -/
def Obligations.InvocationLawsOfR163 : Prop :=
  (∀ (x : U64) (K : Vector U64 3) (n : KeyCount), invoke (invoke x (combineF K n)) (combineR K n) = x) ∧
  (∀ (x : U64) (K : Vector U64 3),
    invoke x (combineF K .threeKey) =
      transform (transform (transform x (scheduleF K[0])) (scheduleR K[1])) (scheduleF K[2]) ∧
    invoke x (combineR K .threeKey) =
      transform (transform (transform x (scheduleR K[2])) (scheduleF K[1])) (scheduleR K[0])) ∧
  (∀ x k0 k1 k2 : U64, invoke x (combineF #v[k0, k1, k2] .twoKey) = invoke x (combineF #v[k0, k1, k0] .threeKey)) ∧
  (∀ x k0 k2 : U64, invoke x (combineF #v[k0, k0, k2] .twoKey) = invoke x (combineF #v[k0, k0, k2] .oneKey) ∧
    invoke x (combineF #v[k0, k0, k0] .threeKey) = invoke x (combineF #v[k0, k0, k0] .oneKey))

/-! ## The CBC driver -/

/-- R175 to R178. CBC_ENC under the conditions of R172, R125 and R173, block by block: each full block of the output is the
invocation of the input block XOR the previous output block (IV for the first); the tail is XORed with the leading bytes of
one more invocation on the last full output block (on IV when there is none, 92 D7); CHAIN is the last full output block (or
IV); ERR = 0; every byte outside the output buffer and every other register stay. -/
def Obligations.CbcEncResult : Prop :=
  ∀ s : State, CbcLegal s → ∃ t, exec .cbcEnc s = .next t ∧
    (∀ b, b < s.len.toNat / 8 → blockAt t (s.dst.toNat + 8 * b) =
      invoke (blockAt s (s.src.toNat + 8 * b) ^^^
        previousBlock s.iv (fun b => blockAt t (s.dst.toNat + 8 * b)) b) (forwardBiased s)) ∧
    t.chain = previousBlock s.iv (fun b => blockAt t (s.dst.toNat + 8 * b)) (s.len.toNat / 8) ∧
    (∀ i, i < s.len.toNat % 8 → t.dmemByte (s.dst.toNat + 8 * (s.len.toNat / 8) + i) =
      s.dmemByte (s.src.toNat + 8 * (s.len.toNat / 8) + i) ^^^
        (invoke t.chain (forwardBiased s)).extractLsb' (56 - 8 * i) 8) ∧
    (∀ a, a < s.dst.toNat ∨ s.dst.toNat + s.len.toNat ≤ a → t.dmemByte a = s.dmemByte a) ∧
    t = { completed s .none with dmem := t.dmem, chain := t.chain }

/-- R180 to R183. CBC_DEC under the same conditions: each full block of the output is the invocation of the input block
under the reverse-biased schedules, XOR the previous input block (IV for the first); the tail is XORed with the leading bytes
of an invocation of the last full input block (or IV, 92 D7) under the FORWARD-biased schedules; CHAIN is the last full input
block (or IV); ERR = 0; every byte outside the output buffer and every other register stay. -/
def Obligations.CbcDecResult : Prop :=
  ∀ s : State, CbcLegal s → ∃ t, exec .cbcDec s = .next t ∧
    (∀ b, b < s.len.toNat / 8 → blockAt t (s.dst.toNat + 8 * b) =
      invoke (blockAt s (s.src.toNat + 8 * b)) (reverseBiased s) ^^^
        previousBlock s.iv (fun b => blockAt s (s.src.toNat + 8 * b)) b) ∧
    t.chain = previousBlock s.iv (fun b => blockAt s (s.src.toNat + 8 * b)) (s.len.toNat / 8) ∧
    (∀ i, i < s.len.toNat % 8 → t.dmemByte (s.dst.toNat + 8 * (s.len.toNat / 8) + i) =
      s.dmemByte (s.src.toNat + 8 * (s.len.toNat / 8) + i) ^^^
        (invoke t.chain (forwardBiased s)).extractLsb' (56 - 8 * i) 8) ∧
    (∀ a, a < s.dst.toNat ∨ s.dst.toNat + s.len.toNat ≤ a → t.dmemByte a = s.dmemByte a) ∧
    t = { completed s .none with dmem := t.dmem, chain := t.chain }

/-- R185 items 1 and 2, R181. Both drivers return as many bytes as they get; decryption restores every plaintext, for every
key count, and ends with the same chaining value as encryption. -/
def Obligations.CbcRoundTrip : Prop :=
  ∀ (K : Vector U64 3) (n : KeyCount) (iv : U64) (p : List Byte),
    (cbcEncrypt K n iv p).bytes.length = p.length ∧ (cbcDecrypt K n iv p).bytes.length = p.length ∧
    (cbcDecrypt K n iv (cbcEncrypt K n iv p).bytes).bytes = p ∧
    (cbcDecrypt K n iv (cbcEncrypt K n iv p).bytes).chain = (cbcEncrypt K n iv p).chain

/-- R185 item 2 on the machine. After a CBC_ENC without error, CBC_DEC with SRC and DST exchanged (the same, in place)
completes without error and restores the input buffer, and CHAIN stays. -/
def Obligations.EncryptThenDecryptRestoresDmem : Prop :=
  ∀ s t : State, exec .cbcEnc s = .next t → t.status.err = .none →
    ∃ u, exec .cbcDec { t with src := s.dst, dst := s.src } = .next u ∧ u.status.err = .none ∧
      (∀ i, i < s.len.toNat → u.dmemByte (s.src.toNat + i) = s.dmemByte (s.src.toNat + i)) ∧ u.chain = t.chain

/-- R184. In-place operation gives the same bytes and CHAIN as disjoint buffers with the same input, for both commands. -/
def Obligations.InPlaceEqualsDisjoint : Prop :=
  ∀ (i : Instr) (s s' : State), i = .cbcEnc ∨ i = .cbcDec → CbcLegal s → CbcLegal s' → s.src = s.dst →
    s'.src ≠ s'.dst → s'.keys = s.keys → s'.iv = s.iv → s'.kcnt = s.kcnt → s'.len = s.len →
    (∀ k, k < s.len.toNat → s'.dmemByte (s'.src.toNat + k) = s.dmemByte (s.src.toNat + k)) →
    ∃ t t', exec i s = .next t ∧ exec i s' = .next t' ∧ t'.chain = t.chain ∧
      ∀ k, k < s.len.toNat → t'.dmemByte (s'.dst.toNat + k) = t.dmemByte (s.dst.toNat + k)

/-- R185 item 3. For plaintexts that agree on the full blocks before block `b`, whatever follows and whatever their lengths:
the ciphertexts agree on those blocks; if the plaintexts differ within full block `b`, the ciphertexts differ in block `b`;
and if they differ there only, as the item's argument takes them, the ciphertexts differ in every full block from it on. -/
def Obligations.ChainingDivergence : Prop :=
  ∀ (K : Vector U64 3) (n : KeyCount) (iv : U64) (p p' : List Byte) (b : Nat),
    (∀ k, k < 8 * b → p'[k]? = p[k]?) →
    (8 * b ≤ p.length → 8 * b ≤ p'.length →
      ∀ k, k < 8 * b → (cbcEncrypt K n iv p').bytes[k]? = (cbcEncrypt K n iv p).bytes[k]?) ∧
    (b < p.length / 8 → b < p'.length / 8 → (∃ k, k / 8 = b ∧ p'[k]? ≠ p[k]?) →
      ((cbcEncrypt K n iv p').bytes.drop (8 * b)).take 8 ≠ ((cbcEncrypt K n iv p).bytes.drop (8 * b)).take 8) ∧
    (p'.length = p.length → b < p.length / 8 → (∀ k, k < p.length → k / 8 ≠ b → p'[k]? = p[k]?) → p' ≠ p →
      ∀ c, b ≤ c → c < p.length / 8 →
        ((cbcEncrypt K n iv p').bytes.drop (8 * c)).take 8 ≠ ((cbcEncrypt K n iv p).bytes.drop (8 * c)).take 8)

/-- R185 item 4. For both drivers and every whole number of blocks `p`: the full output blocks do not depend on the tail
bytes, and output tail byte `i` is input tail byte `i` XOR byte `i` of a keystream block that does not depend on the tail. -/
def Obligations.FullBlocksDoNotDependOnTheTail : Prop :=
  ∀ (K : Vector U64 3) (n : KeyCount) (iv : U64) (p : List Byte), p.length % 8 = 0 →
    (∃ (f : List Byte) (ks : U64), f.length = p.length ∧
      ∀ q, q.length < 8 → (cbcEncrypt K n iv (p ++ q)).bytes = f ++ List.zipWith (· ^^^ ·) q (store64 ks)) ∧
    (∃ (f : List Byte) (ks : U64), f.length = p.length ∧
      ∀ q, q.length < 8 → (cbcDecrypt K n iv (p ++ q)).bytes = f ++ List.zipWith (· ^^^ ·) q (store64 ks))

/-- R183. A buffer of fewer than eight bytes decrypts exactly as it encrypts, and CHAIN is then IV. -/
def Obligations.ShortBuffersDecryptAsTheyEncrypt : Prop :=
  ∀ (s : State), CbcLegal s → s.len.toNat < 8 →
    ∃ t, exec .cbcEnc s = .next t ∧ exec .cbcDec s = .next t ∧ t.chain = s.iv

/-- R23, R185 item 5. The commands that use the key count (R232 item 1) do not depend on key registers at the count and
above; INVOKE, which reads the stored sets, depends on none. -/
def Obligations.KeysBeyondTheCountHaveNoEffect : Prop :=
  (∀ (s : State) (K : Vector U64 3),
    ∃ t, exec .invoke s = .next t ∧ exec .invoke { s with keys := K } = .next { t with keys := K }) ∧
  ∀ (i : Instr) (s : State) (K : Vector U64 3), i = .kcombF ∨ i = .kcombR ∨ i = .invoke ∨ i = .cbcEnc ∨ i = .cbcDec →
    (∀ k : Fin 3, k.val < s.kcnt.toNat → K[k] = s.keys[k]) →
    ∃ t, exec i s = .next t ∧ exec i { s with keys := K } = .next { t with keys := K }

/-- R185 item 6. CBC_ENC with two keys is CBC_ENC with three keys of which the third is the first. -/
def Obligations.TwoKeysAreThreeWithTheFirstReused : Prop :=
  ∀ s : State, s.kcnt = 2#32 →
    ∃ t, exec .cbcEnc s = .next t ∧
      exec .cbcEnc { s with kcnt := 3#32, keys := #v[s.keys[0], s.keys[1], s.keys[0]] } =
        .next { t with kcnt := 3#32, keys := #v[s.keys[0], s.keys[1], s.keys[0]] }

/-! ## Errors and the machine as a whole -/

/-- R203, whole. The error a completing command reports is the first of: IllegalCommand, LengthError, KeyCountError,
RangeError, OverlapError, among those its command can raise (R201); with none of them, ERR = 0. -/
def Obligations.ErrorPrecedenceOfR203 : Prop :=
  ∀ s : State, s.status.busy = true → s.latencyLeft = 0 → ∃ t, step s = .next t ∧
    ((∀ i, decode s.cmd ≠ .ok i) → t.status.err = .illegalCommand) ∧
    (∀ i, decode s.cmd = .ok i →
      (i = .cbcEnc ∨ i = .cbcDec →
        (s.len = 0#32 ∨ s.len.msb = true → t.status.err = .length) ∧
        (¬ (s.len = 0#32 ∨ s.len.msb = true) → ¬ legalCount s.kcnt → t.status.err = .keyCount) ∧
        (¬ (s.len = 0#32 ∨ s.len.msb = true) → legalCount s.kcnt → outOfRange s → t.status.err = .range) ∧
        (¬ (s.len = 0#32 ∨ s.len.msb = true) → legalCount s.kcnt → ¬ outOfRange s → buffersOverlap s →
          t.status.err = .overlap) ∧
        (CbcLegal s → t.status.err = .none)) ∧
      (i = .kcombF ∨ i = .kcombR ∨ i = .invoke →
        (¬ legalCount s.kcnt → t.status.err = .keyCount) ∧ (legalCount s.kcnt → t.status.err = .none)) ∧
      (∀ set ksel, i = .kschedF set ksel ∨ i = .kschedR set ksel ∨ i = .xform set → t.status.err = .none))

/-- R202, whole. A command that ends with an error changes nothing but BUSY, DONE and ERR (CMD holds its word since
acceptance): DMEM, CHAIN, BLK, RKS, RKS_DIR and every other part of the state stay exactly. -/
def Obligations.ErrorsHaveNoOtherEffect : Prop :=
  ∀ s t : State, s.status.busy = true → s.latencyLeft = 0 → step s = .next t → t.status.err ≠ .none →
    t = completed s t.status.err

/-- R23 to R31, R38. Which command may write what: no command writes KEY, IV, KCNT, LEN, SRC, DST or CMD; only KSCHED and
KCOMB write RKS and RKS_DIR, only XFORM and INVOKE write BLK, only the CBC commands write CHAIN and DMEM. -/
def Obligations.EachRegisterHasItsWriters : Prop :=
  ∀ (i : Instr) (s t : State), exec i s = .next t →
    t = { s with
      status := { s.status with busy := false, done := true, err := t.status.err }
      rks := t.rks, rksDir := t.rksDir, blk := t.blk, chain := t.chain, dmem := t.dmem } ∧
    ((∀ set ksel, i ≠ .kschedF set ksel ∧ i ≠ .kschedR set ksel) → i ≠ .kcombF → i ≠ .kcombR →
      t.rks = s.rks ∧ t.rksDir = s.rksDir) ∧
    ((∀ set, i ≠ .xform set) → i ≠ .invoke → t.blk = s.blk) ∧
    (i ≠ .cbcEnc → i ≠ .cbcDec → t.chain = s.chain ∧ t.dmem = s.dmem)

/-- R211. Instances share no state: the step of one is its own step in its own state alone, and leaves every other as it was.
Right after reset every instance has the reset values (R230) and its parameters; that each then draws its free values from a
sequence of its own is the model's choice (notes/assumptions/10.md). -/
def Obligations.InstancesAreIndependent : Prop :=
  (∀ (sys : System) (k : Nat), ∃ sys', stepInstance sys k = .next sys' ∧ sys'.length = sys.length ∧
    (∀ j, j ≠ k → sys'[j]? = sys[j]?) ∧ ∀ s, sys[k]? = some s → ∃ t, step s = .next t ∧ sys'[k]? = some t) ∧
  (∀ (ps : List Params), (System.reset ps).length = ps.length ∧
    ∀ k s, (System.reset ps)[k]? = some s → resetRegisters s ∧ ps[k]? = some s.params ∧ s.source = k)

/-- R70, R76, R62. The pseudo-command `do`: a host that writes a command's word with no command in flight and waits sees,
when its `wait` is over, exactly the state that `exec` gives for that command, whatever the latency was. (The numbers of
steps and of draws are the model's own, notes/assumptions/2.md and 3.md.) -/
def Obligations.DoCommandRunsTheCommand : Prop :=
  ∀ (s : State) (i : Instr) (rest : List HostOp), s.status.busy = false → i.wellFormed = true →
    s.host = doCommand s.params i ++ rest →
    ∃ t u, steps (Config.latency s (encode i) + 3) s = .next t ∧
      exec i { s with
        cmd := encode i
        status := { s.status with busy := true, done := false, err := .none }
        latencyLeft := 0 } = .next u ∧
      t = { u with draws := s.draws + 1, host := rest, log := t.log }

/-- R76, R54. The pseudo-command `wrbuf`: run by the host with no command in flight, it leaves its bytes in DMEM from offset
A on, every other byte and every register as before. -/
def Obligations.WrbufFillsDmem : Prop :=
  ∀ (s : State) (a : Nat) (bs : List Byte) (rest : List HostOp), s.status.busy = false → s.params.Legal →
    a + bs.length ≤ s.params.dmemBytes → s.host = wrbuf s.params a bs ++ rest →
    ∃ t, steps bs.length s = .next t ∧ t.host = rest ∧ t.dmemSlice a bs.length = bs ∧
      (∀ x, x < a ∨ a + bs.length ≤ x → t.dmemByte x = s.dmemByte x) ∧
      t = { s with dmem := t.dmem, host := t.host, log := t.log }
end

