-- ==== Sys2Proof/Laws/Bits.lean ====
section
/-! SUPPORT. What the bit and byte helpers compute, bit by bit, and that a block's bytes and the block are the same thing. -/

namespace Sys2Proof.Machine

/-- A bit at or above the width is 0. -/
theorem getLsbD_false_of_not_lt {W : Nat} (v : BitVec W) {j : Nat} (h : ¬ j < W) : v.getLsbD j = false :=
  BitVec.getLsbD_of_ge v j (by omega)

/-- One step of `permute`, bit by bit. -/
theorem permuteStep_getLsbD {W M : Nat} (v : BitVec W) (out : BitVec M) (p j : Nat) :
    (permuteStep v out p).getLsbD j = (decide (j < M) && if j = 0 then pos v p else out.getLsbD (j - 1)) := by
  simp only [permuteStep, BitVec.getLsbD_or, BitVec.getLsbD_shiftLeft, BitVec.getLsbD_setWidth,
    BitVec.getLsbD_ofBool]
  by_cases hM : j < M <;> by_cases h0 : j = 0 <;> simp [hM, h0]

/-- The bits of a fold of `permuteStep`: the table's bits come in below the bits already there. -/
theorem permute_foldl_getLsbD {W M : Nat} (v : BitVec W) (T : List Nat) (out : BitVec M) (j : Nat) :
    (T.foldl (permuteStep v) out).getLsbD j =
      (decide (j < M) && if j < T.length then pos v (T.reverse.getD j 0) else out.getLsbD (j - T.length)) := by
  induction T generalizing out with
  | nil =>
    by_cases hM : j < M
    · simp [hM]
    · simpa [hM] using getLsbD_false_of_not_lt out hM
  | cons p T ih =>
    rw [List.foldl_cons, ih, permuteStep_getLsbD]
    by_cases hM : j < M
    · have h4 : j - T.length < M := by omega
      rcases Nat.lt_trichotomy j T.length with h | h | h
      · have h2 : j < T.length + 1 := by omega
        simp [hM, h, h2, List.getD_eq_getElem?_getD, List.length_reverse]
      · have h1 : T.length < M := by omega
        have h0 : 0 < M := by omega
        simp [h, h0, h1, List.getD_eq_getElem?_getD]
      · have h1 : ¬ j < T.length := by omega
        have h2 : ¬ j < T.length + 1 := by omega
        have h3 : j - T.length ≠ 0 := by omega
        simp [hM, h1, h2, h3, h4, Nat.sub_sub]
    · simp [hM]

/-- R12, bit by bit: bit `j` of `permute` is the position the table names for it, counted from the other end. -/
theorem permute_getLsbD {W : Nat} (M : Nat) (T : List Nat) (v : BitVec W) (j : Nat) :
    (permute M T v).getLsbD j = (decide (j < M) && decide (j < T.length) && pos v (T.reverse.getD j 0)) := by
  rw [permute, permute_foldl_getLsbD]
  by_cases hT : j < T.length
  · simp [hT]
  · simp [hT]

/-- R13. Eight bytes are stored. -/
@[simp] theorem length_store64 (v : U64) : (store64 v).length = 8 := rfl

/-- R54. Four bytes are stored. -/
@[simp] theorem length_bytes32 (v : U32) : (bytes32 v).length = 4 := rfl

/-- R13. The stored bytes are those of the block in order. -/
theorem store64_eq_map (v : U64) : store64 v = (List.range 8).map (byte64 v) := rfl

/-- R13. Byte `i` of the stored bytes. -/
theorem store64_getElem (v : U64) (i : Nat) (h : i < 8) :
    (store64 v)[i]'(by simpa using h) = byte64 v i := by
  simp [store64_eq_map]

/-- The bits of a fold of `loadStep`: the sequence's bytes come in below the bits already there. -/
theorem load_foldl_getLsbD (bs : List Byte) (acc : U64) (j : Nat) :
    (bs.foldl loadStep acc).getLsbD j =
      (decide (j < 64) && if j < 8 * bs.length then (bs.reverse.getD (j / 8) 0).getLsbD (j % 8)
        else acc.getLsbD (j - 8 * bs.length)) := by
  induction bs generalizing acc with
  | nil =>
    by_cases hM : j < 64
    · simp [hM]
    · simpa [hM] using getLsbD_false_of_not_lt acc hM
  | cons b bs ih =>
    rw [List.foldl_cons, ih]
    simp only [loadStep, BitVec.getLsbD_or, BitVec.getLsbD_shiftLeft, BitVec.getLsbD_setWidth]
    by_cases hM : j < 64
    · rcases Nat.lt_or_ge j (8 * bs.length) with h | h
      · have h2 : j < 8 * (bs.length + 1) := by omega
        have h3 : j / 8 < bs.length := by omega
        simp [hM, h, h2, h3, List.getD_eq_getElem?_getD, List.getElem?_append, List.length_reverse]
      · have h1 : ¬ j < 8 * bs.length := by omega
        rcases Nat.lt_or_ge j (8 * (bs.length + 1)) with h2 | h2
        · have h3 : j / 8 = bs.length := by omega
          have h4 : j - 8 * bs.length = j % 8 := by omega
          have h5 : j % 8 < 64 := by omega
          have h6 : j % 8 < 8 := by omega
          simp [hM, h1, h2, h3, h4, h5, h6, List.getD_eq_getElem?_getD]
        · have h3 : ¬ j < 8 * (bs.length + 1) := by omega
          have h4 : ¬ j - 8 * bs.length < 8 := by omega
          have h5 : j - 8 * bs.length < 64 := by omega
          have h6 : j - 8 * bs.length - 8 = j - 8 * (bs.length + 1) := by omega
          have h7 : b.getLsbD (j - 8 * bs.length) = false := getLsbD_false_of_not_lt b h4
          simp [hM, h1, h3, h4, h5, h6, h7]
    · simp [hM]

/-- R13, bit by bit: bit `j` of eight loaded bytes is bit `j % 8` of the byte `j / 8` from the end. -/
theorem load64_getLsbD (bs : List Byte) (h : bs.length = 8) (j : Nat) (hj : j < 64) :
    (load64 bs).getLsbD j = (bs.reverse.getD (j / 8) 0).getLsbD (j % 8) := by
  rw [load64, load_foldl_getLsbD]
  have : j < 8 * bs.length := by omega
  simp [hj, this]

/-- R13. A stored byte, bit by bit. -/
theorem byte64_getLsbD (v : U64) (i j : Nat) (hj : j < 8) :
    (byte64 v i).getLsbD j = v.getLsbD (56 - 8 * i + j) := by
  simp [byte64, hj]

/-- R13. The byte of a stored block, counted from the end. -/
theorem store64_reverse_getD (v : U64) (k : Nat) (h : k < 8) : (store64 v).reverse.getD k 0 = byte64 v (7 - k) := by
  rw [List.getD_eq_getElem _ _ (by simpa using h), List.getElem_reverse, store64_getElem _ _ (by simp; omega)]
  rfl

/-- R13. Loading what was stored. -/
@[simp] theorem load64_store64 (v : U64) : load64 (store64 v) = v := by
  apply BitVec.eq_of_getLsbD_eq
  intro j hj
  rw [load64_getLsbD _ rfl j hj, store64_reverse_getD _ _ (by omega), byte64_getLsbD _ _ _ (by omega)]
  congr 1
  omega

/-- R13. Byte `i` of eight loaded bytes is byte `i` of the sequence. -/
theorem byte64_load64 (bs : List Byte) (h : bs.length = 8) (i : Nat) (hi : i < 8) :
    byte64 (load64 bs) i = bs[i] := by
  apply BitVec.eq_of_getLsbD_eq
  intro j hj
  rw [byte64_getLsbD _ _ _ hj, load64_getLsbD _ h _ (by omega)]
  have h1 : (56 - 8 * i + j) / 8 = 7 - i := by omega
  have h2 : (56 - 8 * i + j) % 8 = j := by omega
  have h3 : bs.length - 1 - (7 - i) = i := by omega
  have h4 : 7 - i < bs.length := by omega
  simp [h1, h2, List.getD_eq_getElem?_getD, h4, h3]

/-- R13. Storing what was loaded, for eight bytes. -/
theorem store64_load64 (bs : List Byte) (h : bs.length = 8) : store64 (load64 bs) = bs := by
  apply List.ext_getElem (by simp [h])
  intro i h1 h2
  rw [store64_getElem _ _ (by omega), byte64_load64 _ h _ (by omega)]

/-- R10. The upper half of a concatenation. -/
@[simp] theorem hi_append (a b : U32) : (a ++ b : U64).extractLsb' 32 32 = a := BitVec.extractLsb'_append_eq_left

/-- R10. The lower half of a concatenation. -/
@[simp] theorem lo_append (a b : U32) : (a ++ b : U64).extractLsb' 0 32 = b := BitVec.extractLsb'_append_eq_right

/-- R13. Eight bytes are known by the block they load to. -/
theorem load64_injective (a b : List Byte) (ha : a.length = 8) (hb : b.length = 8) (h : load64 a = load64 b) : a = b := by
  rw [← store64_load64 a ha, h, store64_load64 b hb]

/-- R13. A block is known by the bytes it stores to. -/
theorem store64_injective (a b : U64) (h : store64 a = store64 b) : a = b := by
  rw [← load64_store64 a, h, load64_store64]

/-- R13. The first eight bytes of a stored block and what follows it. -/
theorem take_store64 (v : U64) (r : List Byte) : (store64 v ++ r).take 8 = store64 v := by
  rw [List.take_append_of_le_length (by simp), List.take_of_length_le (by simp)]

/-- R13. What follows a stored block. -/
theorem drop_store64 (v : U64) (r : List Byte) : (store64 v ++ r).drop 8 = r := by
  rw [List.drop_append, List.drop_eq_nil_of_le (by simp), List.nil_append]
  simp

end Sys2Proof.Machine
end

