-- ==== Sys2Proof/Laws/State.lean ====
section
/-! SUPPORT. One lemma per field of the state for each named update of it, true by unfolding, for simp: no later proof
unfolds a record update. -/

namespace Sys2Proof.Machine

variable (s : State)

/-! `storeBytes` writes DMEM only. -/

@[simp] theorem State.storeBytes_params (a : Nat) (bs : List Byte) : (s.storeBytes a bs).params = s.params := rfl
@[simp] theorem State.storeBytes_keys (a : Nat) (bs : List Byte) : (s.storeBytes a bs).keys = s.keys := rfl
@[simp] theorem State.storeBytes_iv (a : Nat) (bs : List Byte) : (s.storeBytes a bs).iv = s.iv := rfl
@[simp] theorem State.storeBytes_kcnt (a : Nat) (bs : List Byte) : (s.storeBytes a bs).kcnt = s.kcnt := rfl
@[simp] theorem State.storeBytes_len (a : Nat) (bs : List Byte) : (s.storeBytes a bs).len = s.len := rfl
@[simp] theorem State.storeBytes_src (a : Nat) (bs : List Byte) : (s.storeBytes a bs).src = s.src := rfl
@[simp] theorem State.storeBytes_dst (a : Nat) (bs : List Byte) : (s.storeBytes a bs).dst = s.dst := rfl
@[simp] theorem State.storeBytes_blk (a : Nat) (bs : List Byte) : (s.storeBytes a bs).blk = s.blk := rfl
@[simp] theorem State.storeBytes_chain (a : Nat) (bs : List Byte) : (s.storeBytes a bs).chain = s.chain := rfl
@[simp] theorem State.storeBytes_rks (a : Nat) (bs : List Byte) : (s.storeBytes a bs).rks = s.rks := rfl
@[simp] theorem State.storeBytes_rksDir (a : Nat) (bs : List Byte) : (s.storeBytes a bs).rksDir = s.rksDir := rfl
@[simp] theorem State.storeBytes_cmd (a : Nat) (bs : List Byte) : (s.storeBytes a bs).cmd = s.cmd := rfl
@[simp] theorem State.storeBytes_status (a : Nat) (bs : List Byte) : (s.storeBytes a bs).status = s.status := rfl
@[simp] theorem State.storeBytes_dmem (a : Nat) (bs : List Byte) : (s.storeBytes a bs).dmem = Memory.setBytes s.dmem a bs := rfl
@[simp] theorem State.storeBytes_source (a : Nat) (bs : List Byte) : (s.storeBytes a bs).source = s.source := rfl
@[simp] theorem State.storeBytes_dmemDraw (a : Nat) (bs : List Byte) : (s.storeBytes a bs).dmemDraw = s.dmemDraw := rfl
@[simp] theorem State.storeBytes_draws (a : Nat) (bs : List Byte) : (s.storeBytes a bs).draws = s.draws := rfl
@[simp] theorem State.storeBytes_latencyLeft (a : Nat) (bs : List Byte) : (s.storeBytes a bs).latencyLeft = s.latencyLeft := rfl
@[simp] theorem State.storeBytes_host (a : Nat) (bs : List Byte) : (s.storeBytes a bs).host = s.host := rfl
@[simp] theorem State.storeBytes_log (a : Nat) (bs : List Byte) : (s.storeBytes a bs).log = s.log := rfl

/-! `writeRks` writes one set and its tag only. -/

@[simp] theorem State.writeRks_params (j : Fin 3) (d : Direction) (K : RoundKeySet) : (s.writeRks j d K).params = s.params := rfl
@[simp] theorem State.writeRks_keys (j : Fin 3) (d : Direction) (K : RoundKeySet) : (s.writeRks j d K).keys = s.keys := rfl
@[simp] theorem State.writeRks_iv (j : Fin 3) (d : Direction) (K : RoundKeySet) : (s.writeRks j d K).iv = s.iv := rfl
@[simp] theorem State.writeRks_kcnt (j : Fin 3) (d : Direction) (K : RoundKeySet) : (s.writeRks j d K).kcnt = s.kcnt := rfl
@[simp] theorem State.writeRks_len (j : Fin 3) (d : Direction) (K : RoundKeySet) : (s.writeRks j d K).len = s.len := rfl
@[simp] theorem State.writeRks_src (j : Fin 3) (d : Direction) (K : RoundKeySet) : (s.writeRks j d K).src = s.src := rfl
@[simp] theorem State.writeRks_dst (j : Fin 3) (d : Direction) (K : RoundKeySet) : (s.writeRks j d K).dst = s.dst := rfl
@[simp] theorem State.writeRks_blk (j : Fin 3) (d : Direction) (K : RoundKeySet) : (s.writeRks j d K).blk = s.blk := rfl
@[simp] theorem State.writeRks_chain (j : Fin 3) (d : Direction) (K : RoundKeySet) : (s.writeRks j d K).chain = s.chain := rfl
@[simp] theorem State.writeRks_rks (j : Fin 3) (d : Direction) (K : RoundKeySet) : (s.writeRks j d K).rks = s.rks.set j K := rfl
@[simp] theorem State.writeRks_rksDir (j : Fin 3) (d : Direction) (K : RoundKeySet) : (s.writeRks j d K).rksDir = writeTag s.rksDir j d := rfl
@[simp] theorem State.writeRks_cmd (j : Fin 3) (d : Direction) (K : RoundKeySet) : (s.writeRks j d K).cmd = s.cmd := rfl
@[simp] theorem State.writeRks_status (j : Fin 3) (d : Direction) (K : RoundKeySet) : (s.writeRks j d K).status = s.status := rfl
@[simp] theorem State.writeRks_dmem (j : Fin 3) (d : Direction) (K : RoundKeySet) : (s.writeRks j d K).dmem = s.dmem := rfl
@[simp] theorem State.writeRks_source (j : Fin 3) (d : Direction) (K : RoundKeySet) : (s.writeRks j d K).source = s.source := rfl
@[simp] theorem State.writeRks_dmemDraw (j : Fin 3) (d : Direction) (K : RoundKeySet) : (s.writeRks j d K).dmemDraw = s.dmemDraw := rfl
@[simp] theorem State.writeRks_draws (j : Fin 3) (d : Direction) (K : RoundKeySet) : (s.writeRks j d K).draws = s.draws := rfl
@[simp] theorem State.writeRks_latencyLeft (j : Fin 3) (d : Direction) (K : RoundKeySet) : (s.writeRks j d K).latencyLeft = s.latencyLeft := rfl
@[simp] theorem State.writeRks_host (j : Fin 3) (d : Direction) (K : RoundKeySet) : (s.writeRks j d K).host = s.host := rfl
@[simp] theorem State.writeRks_log (j : Fin 3) (d : Direction) (K : RoundKeySet) : (s.writeRks j d K).log = s.log := rfl

/-! `writeBlk` writes BLK only. -/

@[simp] theorem State.writeBlk_params (v : U64) : (s.writeBlk v).params = s.params := rfl
@[simp] theorem State.writeBlk_keys (v : U64) : (s.writeBlk v).keys = s.keys := rfl
@[simp] theorem State.writeBlk_iv (v : U64) : (s.writeBlk v).iv = s.iv := rfl
@[simp] theorem State.writeBlk_kcnt (v : U64) : (s.writeBlk v).kcnt = s.kcnt := rfl
@[simp] theorem State.writeBlk_len (v : U64) : (s.writeBlk v).len = s.len := rfl
@[simp] theorem State.writeBlk_src (v : U64) : (s.writeBlk v).src = s.src := rfl
@[simp] theorem State.writeBlk_dst (v : U64) : (s.writeBlk v).dst = s.dst := rfl
@[simp] theorem State.writeBlk_blk (v : U64) : (s.writeBlk v).blk = v := rfl
@[simp] theorem State.writeBlk_chain (v : U64) : (s.writeBlk v).chain = s.chain := rfl
@[simp] theorem State.writeBlk_rks (v : U64) : (s.writeBlk v).rks = s.rks := rfl
@[simp] theorem State.writeBlk_rksDir (v : U64) : (s.writeBlk v).rksDir = s.rksDir := rfl
@[simp] theorem State.writeBlk_cmd (v : U64) : (s.writeBlk v).cmd = s.cmd := rfl
@[simp] theorem State.writeBlk_status (v : U64) : (s.writeBlk v).status = s.status := rfl
@[simp] theorem State.writeBlk_dmem (v : U64) : (s.writeBlk v).dmem = s.dmem := rfl
@[simp] theorem State.writeBlk_source (v : U64) : (s.writeBlk v).source = s.source := rfl
@[simp] theorem State.writeBlk_dmemDraw (v : U64) : (s.writeBlk v).dmemDraw = s.dmemDraw := rfl
@[simp] theorem State.writeBlk_draws (v : U64) : (s.writeBlk v).draws = s.draws := rfl
@[simp] theorem State.writeBlk_latencyLeft (v : U64) : (s.writeBlk v).latencyLeft = s.latencyLeft := rfl
@[simp] theorem State.writeBlk_host (v : U64) : (s.writeBlk v).host = s.host := rfl
@[simp] theorem State.writeBlk_log (v : U64) : (s.writeBlk v).log = s.log := rfl

/-! `writeChain` writes CHAIN only. -/

@[simp] theorem State.writeChain_params (v : U64) : (s.writeChain v).params = s.params := rfl
@[simp] theorem State.writeChain_keys (v : U64) : (s.writeChain v).keys = s.keys := rfl
@[simp] theorem State.writeChain_iv (v : U64) : (s.writeChain v).iv = s.iv := rfl
@[simp] theorem State.writeChain_kcnt (v : U64) : (s.writeChain v).kcnt = s.kcnt := rfl
@[simp] theorem State.writeChain_len (v : U64) : (s.writeChain v).len = s.len := rfl
@[simp] theorem State.writeChain_src (v : U64) : (s.writeChain v).src = s.src := rfl
@[simp] theorem State.writeChain_dst (v : U64) : (s.writeChain v).dst = s.dst := rfl
@[simp] theorem State.writeChain_blk (v : U64) : (s.writeChain v).blk = s.blk := rfl
@[simp] theorem State.writeChain_chain (v : U64) : (s.writeChain v).chain = v := rfl
@[simp] theorem State.writeChain_rks (v : U64) : (s.writeChain v).rks = s.rks := rfl
@[simp] theorem State.writeChain_rksDir (v : U64) : (s.writeChain v).rksDir = s.rksDir := rfl
@[simp] theorem State.writeChain_cmd (v : U64) : (s.writeChain v).cmd = s.cmd := rfl
@[simp] theorem State.writeChain_status (v : U64) : (s.writeChain v).status = s.status := rfl
@[simp] theorem State.writeChain_dmem (v : U64) : (s.writeChain v).dmem = s.dmem := rfl
@[simp] theorem State.writeChain_source (v : U64) : (s.writeChain v).source = s.source := rfl
@[simp] theorem State.writeChain_dmemDraw (v : U64) : (s.writeChain v).dmemDraw = s.dmemDraw := rfl
@[simp] theorem State.writeChain_draws (v : U64) : (s.writeChain v).draws = s.draws := rfl
@[simp] theorem State.writeChain_latencyLeft (v : U64) : (s.writeChain v).latencyLeft = s.latencyLeft := rfl
@[simp] theorem State.writeChain_host (v : U64) : (s.writeChain v).host = s.host := rfl
@[simp] theorem State.writeChain_log (v : U64) : (s.writeChain v).log = s.log := rfl

/-! `accept` writes CMD and STATUS, and draws the latency. -/

@[simp] theorem State.accept_params (w : U32) : (s.accept w).params = s.params := rfl
@[simp] theorem State.accept_keys (w : U32) : (s.accept w).keys = s.keys := rfl
@[simp] theorem State.accept_iv (w : U32) : (s.accept w).iv = s.iv := rfl
@[simp] theorem State.accept_kcnt (w : U32) : (s.accept w).kcnt = s.kcnt := rfl
@[simp] theorem State.accept_len (w : U32) : (s.accept w).len = s.len := rfl
@[simp] theorem State.accept_src (w : U32) : (s.accept w).src = s.src := rfl
@[simp] theorem State.accept_dst (w : U32) : (s.accept w).dst = s.dst := rfl
@[simp] theorem State.accept_blk (w : U32) : (s.accept w).blk = s.blk := rfl
@[simp] theorem State.accept_chain (w : U32) : (s.accept w).chain = s.chain := rfl
@[simp] theorem State.accept_rks (w : U32) : (s.accept w).rks = s.rks := rfl
@[simp] theorem State.accept_rksDir (w : U32) : (s.accept w).rksDir = s.rksDir := rfl
@[simp] theorem State.accept_cmd (w : U32) : (s.accept w).cmd = w := rfl
@[simp] theorem State.accept_status (w : U32) : (s.accept w).status = statusAccepted s.status := rfl
@[simp] theorem State.accept_dmem (w : U32) : (s.accept w).dmem = s.dmem := rfl
@[simp] theorem State.accept_source (w : U32) : (s.accept w).source = s.source := rfl
@[simp] theorem State.accept_dmemDraw (w : U32) : (s.accept w).dmemDraw = s.dmemDraw := rfl
@[simp] theorem State.accept_draws (w : U32) : (s.accept w).draws = s.draws + 1 := rfl
@[simp] theorem State.accept_latencyLeft (w : U32) : (s.accept w).latencyLeft = Config.latency s w := rfl
@[simp] theorem State.accept_host (w : U32) : (s.accept w).host = s.host := rfl
@[simp] theorem State.accept_log (w : U32) : (s.accept w).log = s.log := rfl

/-! `complete` writes STATUS only. -/

@[simp] theorem State.complete_params (e : ErrorCode) : (s.complete e).params = s.params := rfl
@[simp] theorem State.complete_keys (e : ErrorCode) : (s.complete e).keys = s.keys := rfl
@[simp] theorem State.complete_iv (e : ErrorCode) : (s.complete e).iv = s.iv := rfl
@[simp] theorem State.complete_kcnt (e : ErrorCode) : (s.complete e).kcnt = s.kcnt := rfl
@[simp] theorem State.complete_len (e : ErrorCode) : (s.complete e).len = s.len := rfl
@[simp] theorem State.complete_src (e : ErrorCode) : (s.complete e).src = s.src := rfl
@[simp] theorem State.complete_dst (e : ErrorCode) : (s.complete e).dst = s.dst := rfl
@[simp] theorem State.complete_blk (e : ErrorCode) : (s.complete e).blk = s.blk := rfl
@[simp] theorem State.complete_chain (e : ErrorCode) : (s.complete e).chain = s.chain := rfl
@[simp] theorem State.complete_rks (e : ErrorCode) : (s.complete e).rks = s.rks := rfl
@[simp] theorem State.complete_rksDir (e : ErrorCode) : (s.complete e).rksDir = s.rksDir := rfl
@[simp] theorem State.complete_cmd (e : ErrorCode) : (s.complete e).cmd = s.cmd := rfl
@[simp] theorem State.complete_status (e : ErrorCode) : (s.complete e).status = statusCompleted s.status e := rfl
@[simp] theorem State.complete_dmem (e : ErrorCode) : (s.complete e).dmem = s.dmem := rfl
@[simp] theorem State.complete_source (e : ErrorCode) : (s.complete e).source = s.source := rfl
@[simp] theorem State.complete_dmemDraw (e : ErrorCode) : (s.complete e).dmemDraw = s.dmemDraw := rfl
@[simp] theorem State.complete_draws (e : ErrorCode) : (s.complete e).draws = s.draws := rfl
@[simp] theorem State.complete_latencyLeft (e : ErrorCode) : (s.complete e).latencyLeft = s.latencyLeft := rfl
@[simp] theorem State.complete_host (e : ErrorCode) : (s.complete e).host = s.host := rfl
@[simp] theorem State.complete_log (e : ErrorCode) : (s.complete e).log = s.log := rfl

/-! `loseCommand` writes CMDLOST only. -/

@[simp] theorem State.loseCommand_params : s.loseCommand.params = s.params := rfl
@[simp] theorem State.loseCommand_keys : s.loseCommand.keys = s.keys := rfl
@[simp] theorem State.loseCommand_iv : s.loseCommand.iv = s.iv := rfl
@[simp] theorem State.loseCommand_kcnt : s.loseCommand.kcnt = s.kcnt := rfl
@[simp] theorem State.loseCommand_len : s.loseCommand.len = s.len := rfl
@[simp] theorem State.loseCommand_src : s.loseCommand.src = s.src := rfl
@[simp] theorem State.loseCommand_dst : s.loseCommand.dst = s.dst := rfl
@[simp] theorem State.loseCommand_blk : s.loseCommand.blk = s.blk := rfl
@[simp] theorem State.loseCommand_chain : s.loseCommand.chain = s.chain := rfl
@[simp] theorem State.loseCommand_rks : s.loseCommand.rks = s.rks := rfl
@[simp] theorem State.loseCommand_rksDir : s.loseCommand.rksDir = s.rksDir := rfl
@[simp] theorem State.loseCommand_cmd : s.loseCommand.cmd = s.cmd := rfl
@[simp] theorem State.loseCommand_status : s.loseCommand.status = { s.status with cmdlost := true } := rfl
@[simp] theorem State.loseCommand_dmem : s.loseCommand.dmem = s.dmem := rfl
@[simp] theorem State.loseCommand_source : s.loseCommand.source = s.source := rfl
@[simp] theorem State.loseCommand_dmemDraw : s.loseCommand.dmemDraw = s.dmemDraw := rfl
@[simp] theorem State.loseCommand_draws : s.loseCommand.draws = s.draws := rfl
@[simp] theorem State.loseCommand_latencyLeft : s.loseCommand.latencyLeft = s.latencyLeft := rfl
@[simp] theorem State.loseCommand_host : s.loseCommand.host = s.host := rfl
@[simp] theorem State.loseCommand_log : s.loseCommand.log = s.log := rfl

/-! `loseWrite` writes WLOST only. -/

@[simp] theorem State.loseWrite_params : s.loseWrite.params = s.params := rfl
@[simp] theorem State.loseWrite_keys : s.loseWrite.keys = s.keys := rfl
@[simp] theorem State.loseWrite_iv : s.loseWrite.iv = s.iv := rfl
@[simp] theorem State.loseWrite_kcnt : s.loseWrite.kcnt = s.kcnt := rfl
@[simp] theorem State.loseWrite_len : s.loseWrite.len = s.len := rfl
@[simp] theorem State.loseWrite_src : s.loseWrite.src = s.src := rfl
@[simp] theorem State.loseWrite_dst : s.loseWrite.dst = s.dst := rfl
@[simp] theorem State.loseWrite_blk : s.loseWrite.blk = s.blk := rfl
@[simp] theorem State.loseWrite_chain : s.loseWrite.chain = s.chain := rfl
@[simp] theorem State.loseWrite_rks : s.loseWrite.rks = s.rks := rfl
@[simp] theorem State.loseWrite_rksDir : s.loseWrite.rksDir = s.rksDir := rfl
@[simp] theorem State.loseWrite_cmd : s.loseWrite.cmd = s.cmd := rfl
@[simp] theorem State.loseWrite_status : s.loseWrite.status = { s.status with wlost := true } := rfl
@[simp] theorem State.loseWrite_dmem : s.loseWrite.dmem = s.dmem := rfl
@[simp] theorem State.loseWrite_source : s.loseWrite.source = s.source := rfl
@[simp] theorem State.loseWrite_dmemDraw : s.loseWrite.dmemDraw = s.dmemDraw := rfl
@[simp] theorem State.loseWrite_draws : s.loseWrite.draws = s.draws := rfl
@[simp] theorem State.loseWrite_latencyLeft : s.loseWrite.latencyLeft = s.latencyLeft := rfl
@[simp] theorem State.loseWrite_host : s.loseWrite.host = s.host := rfl
@[simp] theorem State.loseWrite_log : s.loseWrite.log = s.log := rfl

/-! `writeStatus` writes STATUS only. -/

@[simp] theorem State.writeStatus_params (v : U32) : (s.writeStatus v).params = s.params := rfl
@[simp] theorem State.writeStatus_keys (v : U32) : (s.writeStatus v).keys = s.keys := rfl
@[simp] theorem State.writeStatus_iv (v : U32) : (s.writeStatus v).iv = s.iv := rfl
@[simp] theorem State.writeStatus_kcnt (v : U32) : (s.writeStatus v).kcnt = s.kcnt := rfl
@[simp] theorem State.writeStatus_len (v : U32) : (s.writeStatus v).len = s.len := rfl
@[simp] theorem State.writeStatus_src (v : U32) : (s.writeStatus v).src = s.src := rfl
@[simp] theorem State.writeStatus_dst (v : U32) : (s.writeStatus v).dst = s.dst := rfl
@[simp] theorem State.writeStatus_blk (v : U32) : (s.writeStatus v).blk = s.blk := rfl
@[simp] theorem State.writeStatus_chain (v : U32) : (s.writeStatus v).chain = s.chain := rfl
@[simp] theorem State.writeStatus_rks (v : U32) : (s.writeStatus v).rks = s.rks := rfl
@[simp] theorem State.writeStatus_rksDir (v : U32) : (s.writeStatus v).rksDir = s.rksDir := rfl
@[simp] theorem State.writeStatus_cmd (v : U32) : (s.writeStatus v).cmd = s.cmd := rfl
@[simp] theorem State.writeStatus_status (v : U32) : (s.writeStatus v).status = statusWritten s.status v := rfl
@[simp] theorem State.writeStatus_dmem (v : U32) : (s.writeStatus v).dmem = s.dmem := rfl
@[simp] theorem State.writeStatus_source (v : U32) : (s.writeStatus v).source = s.source := rfl
@[simp] theorem State.writeStatus_dmemDraw (v : U32) : (s.writeStatus v).dmemDraw = s.dmemDraw := rfl
@[simp] theorem State.writeStatus_draws (v : U32) : (s.writeStatus v).draws = s.draws := rfl
@[simp] theorem State.writeStatus_latencyLeft (v : U32) : (s.writeStatus v).latencyLeft = s.latencyLeft := rfl
@[simp] theorem State.writeStatus_host (v : U32) : (s.writeStatus v).host = s.host := rfl
@[simp] theorem State.writeStatus_log (v : U32) : (s.writeStatus v).log = s.log := rfl

/-! `answered` moves the host on only. -/

@[simp] theorem State.answered_params (rest : List HostOp) (r : Response) : (s.answered rest r).params = s.params := rfl
@[simp] theorem State.answered_keys (rest : List HostOp) (r : Response) : (s.answered rest r).keys = s.keys := rfl
@[simp] theorem State.answered_iv (rest : List HostOp) (r : Response) : (s.answered rest r).iv = s.iv := rfl
@[simp] theorem State.answered_kcnt (rest : List HostOp) (r : Response) : (s.answered rest r).kcnt = s.kcnt := rfl
@[simp] theorem State.answered_len (rest : List HostOp) (r : Response) : (s.answered rest r).len = s.len := rfl
@[simp] theorem State.answered_src (rest : List HostOp) (r : Response) : (s.answered rest r).src = s.src := rfl
@[simp] theorem State.answered_dst (rest : List HostOp) (r : Response) : (s.answered rest r).dst = s.dst := rfl
@[simp] theorem State.answered_blk (rest : List HostOp) (r : Response) : (s.answered rest r).blk = s.blk := rfl
@[simp] theorem State.answered_chain (rest : List HostOp) (r : Response) : (s.answered rest r).chain = s.chain := rfl
@[simp] theorem State.answered_rks (rest : List HostOp) (r : Response) : (s.answered rest r).rks = s.rks := rfl
@[simp] theorem State.answered_rksDir (rest : List HostOp) (r : Response) : (s.answered rest r).rksDir = s.rksDir := rfl
@[simp] theorem State.answered_cmd (rest : List HostOp) (r : Response) : (s.answered rest r).cmd = s.cmd := rfl
@[simp] theorem State.answered_status (rest : List HostOp) (r : Response) : (s.answered rest r).status = s.status := rfl
@[simp] theorem State.answered_dmem (rest : List HostOp) (r : Response) : (s.answered rest r).dmem = s.dmem := rfl
@[simp] theorem State.answered_source (rest : List HostOp) (r : Response) : (s.answered rest r).source = s.source := rfl
@[simp] theorem State.answered_dmemDraw (rest : List HostOp) (r : Response) : (s.answered rest r).dmemDraw = s.dmemDraw := rfl
@[simp] theorem State.answered_draws (rest : List HostOp) (r : Response) : (s.answered rest r).draws = s.draws := rfl
@[simp] theorem State.answered_latencyLeft (rest : List HostOp) (r : Response) : (s.answered rest r).latencyLeft = s.latencyLeft := rfl
@[simp] theorem State.answered_host (rest : List HostOp) (r : Response) : (s.answered rest r).host = rest := rfl
@[simp] theorem State.answered_log (rest : List HostOp) (r : Response) : (s.answered rest r).log = r :: s.log := rfl

/-! `tick` uses up latency only. -/

@[simp] theorem State.tick_params (n : Nat) : (s.tick n).params = s.params := rfl
@[simp] theorem State.tick_keys (n : Nat) : (s.tick n).keys = s.keys := rfl
@[simp] theorem State.tick_iv (n : Nat) : (s.tick n).iv = s.iv := rfl
@[simp] theorem State.tick_kcnt (n : Nat) : (s.tick n).kcnt = s.kcnt := rfl
@[simp] theorem State.tick_len (n : Nat) : (s.tick n).len = s.len := rfl
@[simp] theorem State.tick_src (n : Nat) : (s.tick n).src = s.src := rfl
@[simp] theorem State.tick_dst (n : Nat) : (s.tick n).dst = s.dst := rfl
@[simp] theorem State.tick_blk (n : Nat) : (s.tick n).blk = s.blk := rfl
@[simp] theorem State.tick_chain (n : Nat) : (s.tick n).chain = s.chain := rfl
@[simp] theorem State.tick_rks (n : Nat) : (s.tick n).rks = s.rks := rfl
@[simp] theorem State.tick_rksDir (n : Nat) : (s.tick n).rksDir = s.rksDir := rfl
@[simp] theorem State.tick_cmd (n : Nat) : (s.tick n).cmd = s.cmd := rfl
@[simp] theorem State.tick_status (n : Nat) : (s.tick n).status = s.status := rfl
@[simp] theorem State.tick_dmem (n : Nat) : (s.tick n).dmem = s.dmem := rfl
@[simp] theorem State.tick_source (n : Nat) : (s.tick n).source = s.source := rfl
@[simp] theorem State.tick_dmemDraw (n : Nat) : (s.tick n).dmemDraw = s.dmemDraw := rfl
@[simp] theorem State.tick_draws (n : Nat) : (s.tick n).draws = s.draws := rfl
@[simp] theorem State.tick_latencyLeft (n : Nat) : (s.tick n).latencyLeft = n := rfl
@[simp] theorem State.tick_host (n : Nat) : (s.tick n).host = s.host := rfl
@[simp] theorem State.tick_log (n : Nat) : (s.tick n).log = s.log := rfl

/-! `withCommand` writes CMD and STATUS, and no latency is left. -/

@[simp] theorem State.withCommand_params (w : U32) : (s.withCommand w).params = s.params := rfl
@[simp] theorem State.withCommand_keys (w : U32) : (s.withCommand w).keys = s.keys := rfl
@[simp] theorem State.withCommand_iv (w : U32) : (s.withCommand w).iv = s.iv := rfl
@[simp] theorem State.withCommand_kcnt (w : U32) : (s.withCommand w).kcnt = s.kcnt := rfl
@[simp] theorem State.withCommand_len (w : U32) : (s.withCommand w).len = s.len := rfl
@[simp] theorem State.withCommand_src (w : U32) : (s.withCommand w).src = s.src := rfl
@[simp] theorem State.withCommand_dst (w : U32) : (s.withCommand w).dst = s.dst := rfl
@[simp] theorem State.withCommand_blk (w : U32) : (s.withCommand w).blk = s.blk := rfl
@[simp] theorem State.withCommand_chain (w : U32) : (s.withCommand w).chain = s.chain := rfl
@[simp] theorem State.withCommand_rks (w : U32) : (s.withCommand w).rks = s.rks := rfl
@[simp] theorem State.withCommand_rksDir (w : U32) : (s.withCommand w).rksDir = s.rksDir := rfl
@[simp] theorem State.withCommand_cmd (w : U32) : (s.withCommand w).cmd = w := rfl
@[simp] theorem State.withCommand_status (w : U32) : (s.withCommand w).status = statusAccepted s.status := rfl
@[simp] theorem State.withCommand_dmem (w : U32) : (s.withCommand w).dmem = s.dmem := rfl
@[simp] theorem State.withCommand_source (w : U32) : (s.withCommand w).source = s.source := rfl
@[simp] theorem State.withCommand_dmemDraw (w : U32) : (s.withCommand w).dmemDraw = s.dmemDraw := rfl
@[simp] theorem State.withCommand_draws (w : U32) : (s.withCommand w).draws = s.draws := rfl
@[simp] theorem State.withCommand_latencyLeft (w : U32) : (s.withCommand w).latencyLeft = 0 := rfl
@[simp] theorem State.withCommand_host (w : U32) : (s.withCommand w).host = s.host := rfl
@[simp] theorem State.withCommand_log (w : U32) : (s.withCommand w).log = s.log := rfl

/-! The fields of STATUS. -/

@[simp] theorem statusAccepted_busy (st : Status) : (statusAccepted st).busy = true := rfl
@[simp] theorem statusAccepted_done (st : Status) : (statusAccepted st).done = false := rfl
@[simp] theorem statusAccepted_err (st : Status) : (statusAccepted st).err = .none := rfl
@[simp] theorem statusAccepted_cmdlost (st : Status) : (statusAccepted st).cmdlost = st.cmdlost := rfl
@[simp] theorem statusAccepted_wlost (st : Status) : (statusAccepted st).wlost = st.wlost := rfl

@[simp] theorem statusCompleted_busy (st : Status) (e : ErrorCode) : (statusCompleted st e).busy = false := rfl
@[simp] theorem statusCompleted_done (st : Status) (e : ErrorCode) : (statusCompleted st e).done = true := rfl
@[simp] theorem statusCompleted_err (st : Status) (e : ErrorCode) : (statusCompleted st e).err = e := rfl
@[simp] theorem statusCompleted_cmdlost (st : Status) (e : ErrorCode) : (statusCompleted st e).cmdlost = st.cmdlost := rfl
@[simp] theorem statusCompleted_wlost (st : Status) (e : ErrorCode) : (statusCompleted st e).wlost = st.wlost := rfl

@[simp] theorem statusWritten_busy (st : Status) (v : U32) : (statusWritten st v).busy = st.busy := rfl
@[simp] theorem statusWritten_done (st : Status) (v : U32) : (statusWritten st v).done = (st.done && !v.getLsbD 1) := rfl
@[simp] theorem statusWritten_err (st : Status) (v : U32) : (statusWritten st v).err = st.err := rfl
@[simp] theorem statusWritten_cmdlost (st : Status) (v : U32) : (statusWritten st v).cmdlost = (st.cmdlost && !v.getLsbD 8) := rfl
@[simp] theorem statusWritten_wlost (st : Status) (v : U32) : (statusWritten st v).wlost = (st.wlost && !v.getLsbD 9) := rfl

/-! DMEM as read through the updates that leave it alone. -/

@[simp] theorem State.writeRks_dmemByte (j : Fin 3) (d : Direction) (K : RoundKeySet) (x : Nat) : (s.writeRks j d K).dmemByte x = s.dmemByte x := rfl
@[simp] theorem State.writeBlk_dmemByte (v : U64) (x : Nat) : (s.writeBlk v).dmemByte x = s.dmemByte x := rfl
@[simp] theorem State.writeChain_dmemByte (v : U64) (x : Nat) : (s.writeChain v).dmemByte x = s.dmemByte x := rfl
@[simp] theorem State.accept_dmemByte (w : U32) (x : Nat) : (s.accept w).dmemByte x = s.dmemByte x := rfl
@[simp] theorem State.complete_dmemByte (e : ErrorCode) (x : Nat) : (s.complete e).dmemByte x = s.dmemByte x := rfl
@[simp] theorem State.loseCommand_dmemByte (x : Nat) : s.loseCommand.dmemByte x = s.dmemByte x := rfl
@[simp] theorem State.loseWrite_dmemByte (x : Nat) : s.loseWrite.dmemByte x = s.dmemByte x := rfl
@[simp] theorem State.writeStatus_dmemByte (v : U32) (x : Nat) : (s.writeStatus v).dmemByte x = s.dmemByte x := rfl
@[simp] theorem State.answered_dmemByte (rest : List HostOp) (r : Response) (x : Nat) : (s.answered rest r).dmemByte x = s.dmemByte x := rfl
@[simp] theorem State.tick_dmemByte (n : Nat) (x : Nat) : (s.tick n).dmemByte x = s.dmemByte x := rfl
@[simp] theorem State.withCommand_dmemByte (w : U32) (x : Nat) : (s.withCommand w).dmemByte x = s.dmemByte x := rfl

/-! `storeSchedules` writes RKS and RKS_DIR only. -/

@[simp] theorem State.storeSchedules_params (even odd : Direction) (S : Schedules) :
    (s.storeSchedules even odd S).params = s.params := by cases S <;> rfl
@[simp] theorem State.storeSchedules_keys (even odd : Direction) (S : Schedules) :
    (s.storeSchedules even odd S).keys = s.keys := by cases S <;> rfl
@[simp] theorem State.storeSchedules_iv (even odd : Direction) (S : Schedules) :
    (s.storeSchedules even odd S).iv = s.iv := by cases S <;> rfl
@[simp] theorem State.storeSchedules_kcnt (even odd : Direction) (S : Schedules) :
    (s.storeSchedules even odd S).kcnt = s.kcnt := by cases S <;> rfl
@[simp] theorem State.storeSchedules_len (even odd : Direction) (S : Schedules) :
    (s.storeSchedules even odd S).len = s.len := by cases S <;> rfl
@[simp] theorem State.storeSchedules_src (even odd : Direction) (S : Schedules) :
    (s.storeSchedules even odd S).src = s.src := by cases S <;> rfl
@[simp] theorem State.storeSchedules_dst (even odd : Direction) (S : Schedules) :
    (s.storeSchedules even odd S).dst = s.dst := by cases S <;> rfl
@[simp] theorem State.storeSchedules_blk (even odd : Direction) (S : Schedules) :
    (s.storeSchedules even odd S).blk = s.blk := by cases S <;> rfl
@[simp] theorem State.storeSchedules_chain (even odd : Direction) (S : Schedules) :
    (s.storeSchedules even odd S).chain = s.chain := by cases S <;> rfl
@[simp] theorem State.storeSchedules_cmd (even odd : Direction) (S : Schedules) :
    (s.storeSchedules even odd S).cmd = s.cmd := by cases S <;> rfl
@[simp] theorem State.storeSchedules_status (even odd : Direction) (S : Schedules) :
    (s.storeSchedules even odd S).status = s.status := by cases S <;> rfl
@[simp] theorem State.storeSchedules_dmem (even odd : Direction) (S : Schedules) :
    (s.storeSchedules even odd S).dmem = s.dmem := by cases S <;> rfl
@[simp] theorem State.storeSchedules_source (even odd : Direction) (S : Schedules) :
    (s.storeSchedules even odd S).source = s.source := by cases S <;> rfl
@[simp] theorem State.storeSchedules_dmemDraw (even odd : Direction) (S : Schedules) :
    (s.storeSchedules even odd S).dmemDraw = s.dmemDraw := by cases S <;> rfl
@[simp] theorem State.storeSchedules_draws (even odd : Direction) (S : Schedules) :
    (s.storeSchedules even odd S).draws = s.draws := by cases S <;> rfl
@[simp] theorem State.storeSchedules_latencyLeft (even odd : Direction) (S : Schedules) :
    (s.storeSchedules even odd S).latencyLeft = s.latencyLeft := by cases S <;> rfl
@[simp] theorem State.storeSchedules_host (even odd : Direction) (S : Schedules) :
    (s.storeSchedules even odd S).host = s.host := by cases S <;> rfl
@[simp] theorem State.storeSchedules_log (even odd : Direction) (S : Schedules) :
    (s.storeSchedules even odd S).log = s.log := by cases S <;> rfl
@[simp] theorem State.storeSchedules_dmemByte (even odd : Direction) (S : Schedules) (x : Nat) :
    (s.storeSchedules even odd S).dmemByte x = s.dmemByte x := by cases S <;> rfl

/-! What an instruction placed by `withFetchWord` stands in. -/

@[simp] theorem State.withFetchWord_cmd (nbits w : Nat) : (s.withFetchWord nbits w).cmd = tableWord nbits w := rfl
@[simp] theorem State.withFetchWord_latencyLeft (nbits w : Nat) : (s.withFetchWord nbits w).latencyLeft = 0 := rfl
@[simp] theorem State.withFetchWord_status (nbits w : Nat) :
    (s.withFetchWord nbits w).status = statusAccepted s.status := rfl

end Sys2Proof.Machine
end

