-- ==== Sys2Proof/Laws/Bus.lean ====
section
/-! SUPPORT. The window, the map of targets, and what the host's accesses can do. -/

namespace Sys2Proof.Machine

/-- R50. A window offset, from its bus address. -/
theorem windowOffset?_add (p : Params) (off : Nat) (h : off < 0x10000) : windowOffset? p (p.base + off) = some off := by
  simp [windowOffset?, windowBytes, h]

/-- A bus read at a window offset. -/
theorem State.hostRead_add (s : State) (off : Nat) (w : Width) (h : off < 0x10000) :
    s.hostRead (s.params.base + off) w = s.hostReadAt off w := by
  simp only [State.hostRead, windowOffset?_add _ _ h]

/-- A bus write at a window offset. -/
theorem State.hostWrite_add (s : State) (off : Nat) (d : WriteData) (h : off < 0x10000) :
    s.hostWrite (s.params.base + off) d = s.hostWriteAt off d := by
  simp only [State.hostWrite, windowOffset?_add _ _ h]

/-- A read that breaks the access rules. -/
theorem State.hostReadAt_none (s : State) (off : Nat) (w : Width) (h : target? s.params off w = none) :
    s.hostReadAt off w = (s, .busError) := by
  simp only [State.hostReadAt, h]

/-- A read that keeps the access rules. -/
theorem State.hostReadAt_some (s : State) (off : Nat) (w : Width) (t : Target) (h : target? s.params off w = some t) :
    s.hostReadAt off w = s.hostReadTarget t := by
  simp only [State.hostReadAt, h]

/-- A write that breaks the access rules. -/
theorem State.hostWriteAt_none (s : State) (off : Nat) (d : WriteData) (h : target? s.params off d.width = none) :
    s.hostWriteAt off d = (s, .busError) := by
  simp only [State.hostWriteAt, h]

/-- A write that keeps the access rules. -/
theorem State.hostWriteAt_some (s : State) (off : Nat) (d : WriteData) (t : Target)
    (h : target? s.params off d.width = some t) : s.hostWriteAt off d = (s.hostWriteTarget t d, .written) := by
  simp only [State.hostWriteAt, h]

/-- Below DMEM an access reaches registers. -/
theorem target?_of_lt (p : Params) (off : Nat) (w : Width) (h : off < 0x1000) : target? p off w = regTarget? off w :=
  if_pos h

/-- From 0x1000 on an access reaches DMEM. -/
theorem target?_of_ge (p : Params) (off : Nat) (w : Width) (h : 0x1000 ≤ off) :
    target? p off w = dmemTarget? p.dmemBytes (off - 0x1000) w :=
  if_neg (Nat.not_lt.2 h)

/-- R80. A register word is what a 32-bit access at its offset reaches. -/
theorem target?_reg (p : Params) (off : Nat) (r : Reg) (h : off < 0x1000) (hr : regAt? off = some r) :
    target? p off .word = some (.reg r) := by
  simp [target?, regTarget?, dmemOffset, h, hr]

/-- R56. An 8-bit access to DMEM. -/
theorem target?_dmemByte (p : Params) (a : Nat) (h : a < p.dmemBytes) :
    target? p (0x1000 + a) .byte = some (.dmemByte a) := by
  simp [target?, dmemTarget?, dmemOffset, h]

/-- R56. A 32-bit access to DMEM. -/
theorem target?_dmemWord (p : Params) (a : Nat) (h4 : a % 4 = 0) (h : a + 4 ≤ p.dmemBytes) :
    target? p (0x1000 + a) .word = some (.dmemWord a) := by
  simp [target?, dmemTarget?, dmemOffset, h, h4]

/-- R80. No register word lies at or above 0x580. -/
theorem regAt?_lt (off : Nat) (r : Reg) (h : regAt? off = some r) : off < 0x580 := by
  unfold regAt? at h
  split at h <;> first | omega | skip
  split at h
  · omega
  · cases h

/-- R58. A read changes nothing but the count of draws. -/
theorem State.hostReadTarget_state (s : State) (t : Target) :
    (s.hostReadTarget t).1 = { s with draws := (s.hostReadTarget t).1.draws } ∧
      s.draws ≤ (s.hostReadTarget t).1.draws := by
  unfold State.hostReadTarget
  split <;> simp

/-- R58. A bus read changes nothing but the count of draws. -/
theorem State.hostRead_state (s : State) (addr : Nat) (w : Width) :
    (s.hostRead addr w).1 = { s with draws := (s.hostRead addr w).1.draws } ∧ s.draws ≤ (s.hostRead addr w).1.draws := by
  unfold State.hostRead
  split
  · simp
  · rename_i off _
    rcases h : target? s.params off w with _ | t
    · simp [State.hostReadAt_none s off w h]
    · simpa [State.hostReadAt_some s off w t h] using s.hostReadTarget_state t

/-- R39, R241. What a write can do while BUSY = 1: clear W1C bits, or record that it was lost. -/
theorem State.hostWriteTarget_busy (s : State) (t : Target) (d : WriteData) (h : s.status.busy = true) :
    s.hostWriteTarget t d = s.writeStatus d.value ∨ s.hostWriteTarget t d = s.loseCommand ∨
      s.hostWriteTarget t d = s.loseWrite := by
  unfold State.hostWriteTarget
  split <;> simp [h]

/-- Everything a bus write can do: nothing, or the write of a target that the access rules allow. -/
theorem State.hostWrite_cases (s : State) (addr : Nat) (d : WriteData) :
    (s.hostWrite addr d).1 = s ∨
      ∃ off t, target? s.params off d.width = some t ∧ (s.hostWrite addr d).1 = s.hostWriteTarget t d := by
  unfold State.hostWrite
  split
  · exact .inl rfl
  · rename_i off _
    rcases h : target? s.params off d.width with _ | t
    · exact .inl (by simp [State.hostWriteAt_none s off d h])
    · exact .inr ⟨off, t, h, by simp [State.hostWriteAt_some s off d t h]⟩

/-- A write to a target records no answer of its own. -/
@[simp] theorem State.hostWriteTarget_log (s : State) (t : Target) (d : WriteData) : (s.hostWriteTarget t d).log = s.log := by
  unfold State.hostWriteTarget
  split <;> first | rfl | (split <;> first | rfl | (rename_i r _ _ _; cases r <;> rfl))

/-- A bus read records no answer of its own. -/
@[simp] theorem State.hostRead_log (s : State) (addr : Nat) (w : Width) : (s.hostRead addr w).1.log = s.log := by
  rw [(s.hostRead_state addr w).1]

/-- A bus write records no answer of its own. -/
@[simp] theorem State.hostWrite_log (s : State) (addr : Nat) (d : WriteData) : (s.hostWrite addr d).1.log = s.log := by
  rcases s.hostWrite_cases addr d with h | ⟨_, t, _, h⟩ <;> rw [h]
  exact s.hostWriteTarget_log t d

/-- A DMEM target the access rules allow lies inside DMEM, for the bytes its width writes. -/
theorem target?_dmem_bounds (p : Params) (off : Nat) (w : Width) (t : Target) (h : target? p off w = some t) :
    (∀ a, t = .dmemByte a → w = .byte ∧ a < p.dmemBytes) ∧ (∀ a, t = .dmemWord a → w = .word ∧ a + 4 ≤ p.dmemBytes) := by
  unfold target? at h
  split at h
  · cases w <;> simp [regTarget?] at h
    obtain ⟨r, _, rfl⟩ := h
    simp
  · cases w <;> simp [dmemTarget?] at h
    · obtain ⟨h1, rfl⟩ := h
      simpa using h1
    · obtain ⟨h1, rfl⟩ := h
      simpa using h1.2

/-! ## Accesses at an offset of known target -/

/-- R80. A 32-bit read of a register word. -/
theorem State.hostRead_reg (s : State) (off : Nat) (r : Reg) (hr : regAt? off = some r) :
    s.hostRead (s.params.base + off) .word = s.hostReadTarget (.reg r) := by
  have h := regAt?_lt off r hr
  rw [State.hostRead_add s off .word (by omega), State.hostReadAt_some s off .word _ (target?_reg s.params off r (by omega) hr)]

/-- R80. A 32-bit write of a register word. -/
theorem State.hostWrite_reg (s : State) (off : Nat) (v : U32) (r : Reg) (hr : regAt? off = some r) :
    s.hostWrite (s.params.base + off) (.word v) = (s.hostWriteTarget (.reg r) (.word v), .written) := by
  have h := regAt?_lt off r hr
  rw [State.hostWrite_add s off (.word v) (by omega)]
  exact State.hostWriteAt_some s off (.word v) _ (target?_reg s.params off r (by omega) hr)

/-- R56. An 8-bit read of DMEM, at a byte inside the window. -/
theorem State.hostRead_dmemByte (s : State) (a : Nat) (h : a < s.params.dmemBytes) (hw : a < 0xF000) :
    s.hostRead (s.params.base + 0x1000 + a) .byte = s.hostReadTarget (.dmemByte a) := by
  rw [Nat.add_assoc, State.hostRead_add s (0x1000 + a) .byte (by omega),
    State.hostReadAt_some s (0x1000 + a) .byte _ (target?_dmemByte s.params a h)]

/-- R56. An 8-bit write of DMEM, at a byte inside the window. -/
theorem State.hostWrite_dmemByte (s : State) (a : Nat) (v : Byte) (h : a < s.params.dmemBytes) (hw : a < 0xF000) :
    s.hostWrite (s.params.base + 0x1000 + a) (.byte v) = (s.hostWriteTarget (.dmemByte a) (.byte v), .written) := by
  rw [Nat.add_assoc, State.hostWrite_add s (0x1000 + a) (.byte v) (by omega)]
  exact State.hostWriteAt_some s (0x1000 + a) (.byte v) _ (target?_dmemByte s.params a h)

/-- R56. A 32-bit read of DMEM, at a word inside the window. -/
theorem State.hostRead_dmemWord (s : State) (a : Nat) (h4 : a % 4 = 0) (h : a + 4 ≤ s.params.dmemBytes)
    (hw : a < 0xF000) : s.hostRead (s.params.base + 0x1000 + a) .word = s.hostReadTarget (.dmemWord a) := by
  rw [Nat.add_assoc, State.hostRead_add s (0x1000 + a) .word (by omega),
    State.hostReadAt_some s (0x1000 + a) .word _ (target?_dmemWord s.params a h4 h)]

/-- R56. A 32-bit write of DMEM, at a word inside the window. -/
theorem State.hostWrite_dmemWord (s : State) (a : Nat) (v : U32) (h4 : a % 4 = 0) (h : a + 4 ≤ s.params.dmemBytes)
    (hw : a < 0xF000) :
    s.hostWrite (s.params.base + 0x1000 + a) (.word v) = (s.hostWriteTarget (.dmemWord a) (.word v), .written) := by
  rw [Nat.add_assoc, State.hostWrite_add s (0x1000 + a) (.word v) (by omega)]
  exact State.hostWriteAt_some s (0x1000 + a) (.word v) _ (target?_dmemWord s.params a h4 h)

/-! ## The register map -/

/-- R80. Which offsets hold a register word. -/
theorem regAt?_isSome (off : Nat) :
    (regAt? off).isSome ↔ off % 4 = 0 ∧ (off ≤ 0x04B ∨ (0x400 ≤ off ∧ off ≤ 0x57F)) := by
  unfold regAt?
  split <;> first | (simp; done) | skip
  simp only [imp_false] at *
  by_cases h : 0x400 ≤ off ∧ off < 0x580 ∧ off % 4 = 0
  · rw [if_pos h]
    refine ⟨fun _ => by omega, fun _ => rfl⟩
  · rw [if_neg h]
    refine ⟨fun h => by simp at h, fun hh => ?_⟩
    omega

/-- R81. An aligned offset of the RKS window holds a round-key word. -/
theorem regAt?_rksWindow (off : Nat) (h : 0x400 ≤ off ∧ off < 0x580 ∧ off % 4 = 0) : regAt? off = some (rksWord off) := by
  unfold regAt?
  split <;> first | omega | skip
  rw [if_pos h]

/-- A register target comes from the register map. -/
theorem regAt?_of_target? (p : Params) (off : Nat) (w : Width) (r : Reg) (h : target? p off w = some (.reg r)) :
    regAt? off = some r := by
  unfold target? at h
  split at h
  · cases w <;> simp [regTarget?] at h
    exact h
  · cases w <;> simp [dmemTarget?] at h

/-! ## Register words -/

/-- R82. A half of a 64-bit register after a write to a half. -/
theorem halfOf_withHalf (v : U64) (h h' : Half) (w : U32) :
    halfOf (withHalf v h w) h' = if h' = h then w else halfOf v h' := by
  cases h <;> cases h' <;> simp [halfOf, withHalf, hi_append, lo_append]

/-- R38. With no command in flight, a word read of a register answers its value and changes nothing. -/
theorem State.hostRead_reg_idle (s : State) (off : Nat) (r : Reg) (hb : s.status.busy = false) (hr : regAt? off = some r) :
    s.hostRead (s.params.base + off) .word = (s, .data32 (s.readReg r)) := by
  rw [State.hostRead_reg s off r hr]
  simp [State.hostReadTarget, hb, State.readTarget]

end Sys2Proof.Machine
end

