-- ==== Sys2Proof/Laws/Memory.lean ====
section
/-! SUPPORT. The laws of DMEM: a byte reads back where it was written, a write leaves every other byte alone, and every
memory operation keeps the canonical form and the bounds. -/

namespace Sys2Proof.Machine

/-! ## One byte -/

/-- Reading where a byte was written. -/
@[simp] theorem Memory.get?_set_self (m : Memory) (a : Nat) (v : Byte) :
    Memory.get? (Memory.set m a v) a = some v := by
  induction m with
  | nil => simp [Memory.set, Memory.get?]
  | cons c m ih =>
    unfold Memory.set
    split
    · simp [Memory.get?]
    · split
      · simp [Memory.get?]
      · rename_i h
        simp [Memory.get?, h, ih]

/-- Reading elsewhere. -/
theorem Memory.get?_set_of_ne (m : Memory) (a x : Nat) (v : Byte) (h : x ≠ a) :
    Memory.get? (Memory.set m a v) x = Memory.get? m x := by
  induction m with
  | nil => simp [Memory.set, Memory.get?, Ne.symm h]
  | cons c m ih =>
    unfold Memory.set
    split
    · simp [Memory.get?, Ne.symm h]
    · split
      · rename_i h2
        subst h2
        simp [Memory.get?, Ne.symm h]
      · simp [Memory.get?, ih]

/-- What a written list holds: the new byte, and nothing else new. -/
theorem Memory.mem_set (m : Memory) (a : Nat) (v : Byte) (c : Host.Cell) (h : c ∈ Memory.set m a v) :
    c = (a, v) ∨ c ∈ m := by
  induction m with
  | nil => simpa [Memory.set] using h
  | cons d m ih =>
    unfold Memory.set at h
    split at h
    · simpa using h
    · split at h
      · rcases List.mem_cons.1 h with h | h
        · exact .inl h
        · exact .inr (List.mem_cons_of_mem _ h)
      · rcases List.mem_cons.1 h with h | h
        · exact .inr (by simp [h])
        · rcases ih h with h | h
          · exact .inl h
          · exact .inr (List.mem_cons_of_mem _ h)

/-- A write keeps the canonical form. -/
theorem Memory.wf_set (m : Memory) (a : Nat) (v : Byte) (h : Memory.wf m) : Memory.wf (Memory.set m a v) := by
  induction m with
  | nil => simp [Memory.set]
  | cons c m ih =>
    have hc := List.pairwise_cons.1 h
    unfold Memory.set
    split
    · rename_i hlt
      refine List.pairwise_cons.2 ⟨fun d hd => ?_, h⟩
      rcases List.mem_cons.1 hd with hd | hd
      · simpa [hd] using hlt
      · exact Nat.lt_trans hlt (hc.1 d hd)
    · split
      · rename_i heq
        exact List.pairwise_cons.2 ⟨fun d hd => heq ▸ hc.1 d hd, hc.2⟩
      · rename_i h1 h2
        refine List.pairwise_cons.2 ⟨fun d hd => ?_, ih hc.2⟩
        rcases Memory.mem_set m a v d hd with hd | hd
        · subst hd
          show c.1 < a
          omega
        · exact hc.1 d hd

/-! ## Byte sequences -/

/-- Reading inside the bytes written. -/
theorem Memory.get?_setBytes_inside (bs : List Byte) (m : Memory) (a i : Nat) (h : i < bs.length) :
    Memory.get? (Memory.setBytes m a bs) (a + i) = some bs[i] := by
  induction bs generalizing m a i with
  | nil => simp at h
  | cons b bs ih =>
    cases i with
    | zero =>
      suffices hs : ∀ (bs : List Byte) (m : Memory) (a x : Nat), x < a →
          Memory.get? (Memory.setBytes m a bs) x = Memory.get? m x by
        simp [Memory.setBytes, hs bs _ (a + 1) a (by omega)]
      intro bs
      induction bs with
      | nil => intros; rfl
      | cons b bs ih =>
        intro m a x hx
        rw [Memory.setBytes, ih _ _ _ (by omega), Memory.get?_set_of_ne _ _ _ _ (by omega)]
    | succ i =>
      have := ih (Memory.set m a b) (a + 1) i (by simpa using h)
      rw [Memory.setBytes, show a + (i + 1) = a + 1 + i by omega, this]
      simp

/-- Reading outside the bytes written. -/
theorem Memory.get?_setBytes_outside (bs : List Byte) (m : Memory) (a x : Nat) (h : x < a ∨ a + bs.length ≤ x) :
    Memory.get? (Memory.setBytes m a bs) x = Memory.get? m x := by
  induction bs generalizing m a with
  | nil => rfl
  | cons b bs ih =>
    simp only [List.length_cons] at h
    rw [Memory.setBytes, ih _ _ (by omega), Memory.get?_set_of_ne _ _ _ _ (by omega)]

/-- What a written list holds. -/
theorem Memory.mem_setBytes (bs : List Byte) (m : Memory) (a : Nat) (c : Host.Cell)
    (h : c ∈ Memory.setBytes m a bs) : (a ≤ c.1 ∧ c.1 < a + bs.length) ∨ c ∈ m := by
  induction bs generalizing m a with
  | nil => exact .inr h
  | cons b bs ih =>
    simp only [List.length_cons]
    rcases ih _ _ h with h | h
    · left; omega
    · rcases Memory.mem_set _ _ _ _ h with h | h
      · left; subst h; simp
      · exact .inr h

/-- Writing a sequence keeps the canonical form. -/
theorem Memory.wf_setBytes (bs : List Byte) (m : Memory) (a : Nat) (h : Memory.wf m) :
    Memory.wf (Memory.setBytes m a bs) := by
  induction bs generalizing m a with
  | nil => exact h
  | cons b bs ih => exact ih _ _ (Memory.wf_set _ _ _ h)

/-- Reset memory is canonical. -/
theorem Memory.wf_reset : Memory.wf State.reset.dmem := by decide

/-! ## DMEM as the machine reads it -/

/-- A byte of a stored sequence reads back. -/
theorem State.dmemByte_storeBytes_inside (s : State) (a : Nat) (bs : List Byte) (i : Nat) (h : i < bs.length) :
    (s.storeBytes a bs).dmemByte (a + i) = bs[i] := by
  simp [State.dmemByte, State.storeBytes, Memory.get?_setBytes_inside bs s.dmem a i h]

/-- A store leaves every byte outside it alone. -/
theorem State.dmemByte_storeBytes_outside (s : State) (a : Nat) (bs : List Byte) (x : Nat)
    (h : x < a ∨ a + bs.length ≤ x) : (s.storeBytes a bs).dmemByte x = s.dmemByte x := by
  simp [State.dmemByte, State.storeBytes, Memory.get?_setBytes_outside bs s.dmem a x h]

/-- A slice has its length. -/
@[simp] theorem State.length_dmemSlice (s : State) (a n : Nat) : (s.dmemSlice a n).length = n := by
  simp [State.dmemSlice]

/-- The bytes of a slice. -/
@[simp] theorem State.getElem_dmemSlice (s : State) (a n i : Nat) (h : i < (s.dmemSlice a n).length) :
    (s.dmemSlice a n)[i] = s.dmemByte (a + i) := by
  simp [State.dmemSlice]

/-- The slice a store wrote. -/
theorem State.dmemSlice_storeBytes (s : State) (a : Nat) (bs : List Byte) :
    (s.storeBytes a bs).dmemSlice a bs.length = bs := by
  apply List.ext_getElem (by simp)
  intro i h1 h2
  rw [State.getElem_dmemSlice, State.dmemByte_storeBytes_inside]

/-- Part of a slice, dropped from the front. -/
theorem State.dmemSlice_drop (s : State) (a n k : Nat) :
    (s.dmemSlice a n).drop k = s.dmemSlice (a + k) (n - k) := by
  apply List.ext_getElem (by simp)
  intro i h1 h2
  simp [Nat.add_assoc]

/-- Part of a slice, taken from the front. -/
theorem State.dmemSlice_take (s : State) (a n k : Nat) (h : k ≤ n) :
    (s.dmemSlice a n).take k = s.dmemSlice a k := by
  apply List.ext_getElem (by simp [h])
  intro i h1 h2
  simp

/-- MemRead answers exactly when every byte exists (R50, R52). -/
theorem State.memRead_eq_some (s : State) (a n : Nat) (h : a + n ≤ s.params.dmemBytes) :
    s.memRead a n = some (s.dmemSlice a n) := by
  simp [State.memRead, h]

/-- MemWrite answers exactly when every byte exists (R50, R52). -/
theorem State.memWrite_eq_some (s : State) (a : Nat) (bs : List Byte) (h : a + bs.length ≤ s.params.dmemBytes) :
    s.memWrite a bs = some (s.storeBytes a bs) := by
  simp [State.memWrite, h]

end Sys2Proof.Machine
end

