-- ==== Sys2Proof/Laws/Operands.lean ====
section
/-! SUPPORT. When each operand form answers, and what: index fields, KCNT, LEN and the CBC checks; and what a tag write does
to RKS_DIR. -/

namespace Sys2Proof.Machine

/-- A legal index field names the set or key of its number. -/
theorem index3?_of_lt (f : BitVec 2) (h : f.toNat < 3) : index3? f = some ⟨f.toNat, h⟩ := by
  simp [index3?, h]

/-- Index 3 names none. -/
@[simp] theorem index3?_three : index3? 3#2 = none := by decide

/-- An index field names none exactly when it is 3. -/
theorem index3?_eq_none (f : BitVec 2) : index3? f = none ↔ f = 3#2 := by
  revert f; decide

/-- The three legal key counts. -/
@[simp] theorem keyCount?_one : keyCount? 1#32 = some .oneKey := by decide
@[simp] theorem keyCount?_two : keyCount? 2#32 = some .twoKey := by decide
@[simp] theorem keyCount?_three : keyCount? 3#32 = some .threeKey := by decide

/-- Every other value is no key count (R25). -/
theorem keyCount?_eq_none (n : U32) : keyCount? n = none ↔ ¬ (n = 1#32 ∨ n = 2#32 ∨ n = 3#32) := by
  unfold keyCount?
  split
  · simp [*]
  · split
    · simp [*]
    · split
      · simp [*]
      · simp [*]

/-- R172. LEN is no buffer length exactly when it is 0 or bit 31 is 1. -/
theorem bufferLength?_eq_none (len : U32) : bufferLength? len = none ↔ len = 0#32 ∨ len.msb = true := by
  unfold bufferLength?
  rw [BitVec.toInt_eq_msb_cond, BitVec.msb_eq_decide]
  have h0 : len = 0#32 ↔ len.toNat = 0 := by
    constructor
    · rintro rfl; rfl
    · intro h; exact BitVec.eq_of_toNat_eq (by simpa using h)
  have := len.isLt
  simp only [ite_eq_left_iff, reduceCtorEq, imp_false, Decidable.not_not, h0]
  split <;> rename_i hm <;> simp at hm ⊢ <;> omega

/-- R172. Otherwise the length is LEN. -/
theorem bufferLength?_eq_some (len : U32) (h : ¬ (len = 0#32 ∨ len.msb = true)) :
    bufferLength? len = some len.toNat := by
  have h1 := mt (bufferLength?_eq_none len).1 h
  unfold bufferLength? at h1 ⊢
  split
  · rename_i h2
    simp [h2] at h1
  · rfl

/-- What `cbcOperands` answers when it answers operands: LEN, KCNT, SRC and DST as they stand, and every check passed. -/
theorem cbcOperands_ok (s : State) (o : CbcOperands) (h : cbcOperands s = .ok o) :
    bufferLength? s.len = some o.length ∧ keyCount? s.kcnt = some o.count ∧ o.src = s.src.toNat ∧ o.dst = s.dst.toNat ∧
      o.length = s.len.toNat ∧ o.src + o.length ≤ s.params.dmemBytes ∧ o.dst + o.length ≤ s.params.dmemBytes ∧
      overlaps o.src o.dst o.length = false := by
  unfold cbcOperands at h
  split at h
  · cases h
  · rename_i L hL
    split at h
    · cases h
    · rename_i n hn
      split at h
      · rename_i hr
        split at h
        · cases h
        · rename_i ho
          have hlen : L = s.len.toNat := by
            unfold bufferLength? at hL
            split at hL
            · cases hL
            · exact (Option.some.inj hL).symm
          cases h
          simp only [inRange, Bool.and_eq_true, decide_eq_true_eq] at hr
          exact ⟨hL, hn, rfl, rfl, hlen, hr.1, hr.2, by simpa using ho⟩
      · cases h

/-- R31. A written tag reads back. -/
theorem writeTag_self (dir : BitVec 3) (j : Fin 3) (d : Direction) :
    (writeTag dir j d).getLsbD j.val = directionBit d := by
  revert dir j; cases d <;> decide

/-- R31. Writing a tag leaves the others. -/
theorem writeTag_of_ne (dir : BitVec 3) (j k : Fin 3) (d : Direction) (h : k ≠ j) :
    (writeTag dir j d).getLsbD k.val = dir.getLsbD k.val := by
  revert dir j k; cases d <;> decide

/-- R25. The key counts and their values. -/
theorem keyCount?_eq_some (kcnt : U32) (n : KeyCount) (h : keyCount? kcnt = some n) :
    (kcnt = 1#32 ∧ n = .oneKey) ∨ (kcnt = 2#32 ∧ n = .twoKey) ∨ (kcnt = 3#32 ∧ n = .threeKey) := by
  unfold keyCount? at h
  split at h
  · cases h; exact .inl ⟨‹_›, rfl⟩
  · split at h
    · cases h; exact .inr (.inl ⟨‹_›, rfl⟩)
    · split at h
      · cases h; exact .inr (.inr ⟨‹_›, rfl⟩)
      · cases h

/-- R173. The range check, as its two comparisons. -/
theorem inRange_iff (dmemBytes src dst L : Nat) :
    inRange dmemBytes src dst L = true ↔ src + L ≤ dmemBytes ∧ dst + L ≤ dmemBytes := by
  simp [inRange]

/-- R173. The overlap check, as its three comparisons. -/
theorem overlaps_iff (src dst L : Nat) :
    overlaps src dst L = true ↔ src ≠ dst ∧ src < dst + L ∧ dst < src + L := by
  simp [overlaps, and_assoc]

/-- R171. `cbcOperands` when every check passes. -/
theorem cbcOperands_of_checks (s : State) (n : KeyCount) (hl : ¬ (s.len = 0#32 ∨ s.len.msb = true))
    (hn : keyCount? s.kcnt = some n) (hr : inRange s.params.dmemBytes s.src.toNat s.dst.toNat s.len.toNat = true)
    (ho : overlaps s.src.toNat s.dst.toNat s.len.toNat = false) :
    cbcOperands s = .ok { length := s.len.toNat, count := n, src := s.src.toNat, dst := s.dst.toNat } := by
  simp only [cbcOperands, bufferLength?_eq_some s.len hl, hn, hr, ho, if_true]
  rfl

end Sys2Proof.Machine
end

