-- ==== Sys2Proof/Laws/Cbc.lean ====
section
/-! SUPPORT. The lengths of what the CBC drivers make, one block of each at a time, and everything the command around them
can answer. -/

namespace Sys2Proof.Machine

/-- A tail keeps its length. -/
theorem length_xorTail (ks : U64) (tail : List Byte) (h : tail.length < 8) : (xorTail ks tail).length = tail.length := by
  simp [xorTail]
  omega

/-- XORing a tail twice with one keystream restores it. -/
theorem xorTail_xorTail (ks : U64) (tail : List Byte) (h : tail.length < 8) :
    xorTail ks (xorTail ks tail) = tail := by
  apply List.ext_getElem (by rw [length_xorTail _ _ (by rw [length_xorTail _ _ h]; exact h), length_xorTail _ _ h])
  intro i h1 h2
  simp [xorTail]

/-- One block of the encryption loop. -/
theorem encryptBlocks_succ (S : Schedules) (n : Nat) (chain : U64) (pt : List Byte) :
    encryptBlocks S (n + 1) chain pt =
      { bytes := store64 (invoke (load64 (pt.take 8) ^^^ chain) S) ++
          (encryptBlocks S n (invoke (load64 (pt.take 8) ^^^ chain) S) (pt.drop 8)).bytes
        chain := (encryptBlocks S n (invoke (load64 (pt.take 8) ^^^ chain) S) (pt.drop 8)).chain } := rfl

/-- One block of the decryption loop. -/
theorem decryptBlocks_succ (SR SF : Schedules) (n : Nat) (chain : U64) (ct : List Byte) :
    decryptBlocks SR SF (n + 1) chain ct =
      { bytes := store64 (invoke (load64 (ct.take 8)) SR ^^^ chain) ++
          (decryptBlocks SR SF n (load64 (ct.take 8)) (ct.drop 8)).bytes
        chain := (decryptBlocks SR SF n (load64 (ct.take 8)) (ct.drop 8)).chain } := rfl

/-- The encryption loop returns as many bytes as it gets. -/
theorem length_encryptBlocks (S : Schedules) (n : Nat) (chain : U64) (pt : List Byte) (h : pt.length / 8 = n) :
    (encryptBlocks S n chain pt).bytes.length = pt.length := by
  induction n generalizing chain pt with
  | zero => exact length_xorTail _ _ (by omega)
  | succ n ih =>
    have := ih (invoke (load64 (pt.take 8) ^^^ chain) S) (pt.drop 8) (by simp; omega)
    simp only [encryptBlocks_succ, List.length_append, length_store64, this, List.length_drop]
    omega

/-- The decryption loop returns as many bytes as it gets. -/
theorem length_decryptBlocks (SR SF : Schedules) (n : Nat) (chain : U64) (ct : List Byte) (h : ct.length / 8 = n) :
    (decryptBlocks SR SF n chain ct).bytes.length = ct.length := by
  induction n generalizing chain ct with
  | zero => exact length_xorTail _ _ (by omega)
  | succ n ih =>
    have := ih (load64 (ct.take 8)) (ct.drop 8) (by simp; omega)
    simp only [decryptBlocks_succ, List.length_append, length_store64, this, List.length_drop]
    omega

/-- The encryption driver returns as many bytes as it gets. -/
theorem length_cbcEncrypt (K : Vector U64 3) (n : KeyCount) (iv : U64) (pt : List Byte) :
    (cbcEncrypt K n iv pt).bytes.length = pt.length := length_encryptBlocks _ _ _ _ rfl

/-- The decryption driver returns as many bytes as it gets. -/
theorem length_cbcDecrypt (K : Vector U64 3) (n : KeyCount) (iv : U64) (ct : List Byte) :
    (cbcDecrypt K n iv ct).bytes.length = ct.length := length_decryptBlocks _ _ _ _ _ rfl

/-- Everything a CBC command can answer: its first error and nothing else, or the driver's bytes at DST and its chaining
value. In particular no fault. -/
theorem State.runCbc_cases (s : State) (driver : Vector U64 3 → KeyCount → U64 → List Byte → CbcResult)
    (hlen : ∀ K n iv b, (driver K n iv b).bytes.length = b.length) :
    (∃ e, cbcOperands s = .error e ∧ s.runCbc driver = .next (s.complete e)) ∨
    (∃ o, cbcOperands s = .ok o ∧ s.runCbc driver = .next
      (((s.storeBytes o.dst (driver s.keys o.count s.iv (s.dmemSlice o.src o.length)).bytes).writeChain
        (driver s.keys o.count s.iv (s.dmemSlice o.src o.length)).chain).complete .none)) := by
  unfold State.runCbc
  rcases h : cbcOperands s with e | o
  · exact .inl ⟨e, rfl, rfl⟩
  · obtain ⟨_, _, _, _, _, hsrc, hdst, _⟩ := cbcOperands_ok s o h
    refine .inr ⟨o, rfl, ?_⟩
    simp only [State.memRead_eq_some s _ _ hsrc]
    rw [State.memWrite_eq_some]
    · rfl
    · simpa [hlen] using hdst

/-- R177. Byte `i` of a tail is XORed with byte `i` of the keystream block. -/
theorem xorTail_getElem (ks : U64) (tail : List Byte) (i : Nat) (h : i < tail.length) (h8 : tail.length < 8)
    (h' : i < (xorTail ks tail).length) : (xorTail ks tail)[i] = tail[i] ^^^ byte64 ks i := by
  simp only [xorTail, List.getElem_zipWith]
  rw [store64_getElem _ _ (by omega)]

end Sys2Proof.Machine
end

