-- ==== Sys2Proof/Laws/Commands.lean ====
section
/-! SUPPORT. Everything each command's meaning can answer, said once: the provers cite these instead of unfolding it. -/

namespace Sys2Proof.Machine

/-- KSCHED_F: the set written, or an illegal index. -/
theorem execKschedF_cases (set ksel : BitVec 2) (s : State) :
    (∃ (j k : Fin 3), index3? set = some j ∧ index3? ksel = some k ∧
      execKschedF set ksel s = .next ((s.writeRks j .forward (scheduleF s.keys[k])).complete .none)) ∨
    ((index3? set = none ∨ index3? ksel = none) ∧ execKschedF set ksel s = .next (s.complete .illegalCommand)) := by
  unfold execKschedF
  rcases h1 : index3? set with _ | j <;> rcases h2 : index3? ksel with _ | k
  · exact .inr ⟨.inl rfl, rfl⟩
  · exact .inr ⟨.inl rfl, rfl⟩
  · exact .inr ⟨.inr rfl, rfl⟩
  · exact .inl ⟨j, k, rfl, rfl, rfl⟩

/-- KSCHED_R: the set written, or an illegal index. -/
theorem execKschedR_cases (set ksel : BitVec 2) (s : State) :
    (∃ (j k : Fin 3), index3? set = some j ∧ index3? ksel = some k ∧
      execKschedR set ksel s = .next ((s.writeRks j .reverse (scheduleR s.keys[k])).complete .none)) ∨
    ((index3? set = none ∨ index3? ksel = none) ∧ execKschedR set ksel s = .next (s.complete .illegalCommand)) := by
  unfold execKschedR
  rcases h1 : index3? set with _ | j <;> rcases h2 : index3? ksel with _ | k
  · exact .inr ⟨.inl rfl, rfl⟩
  · exact .inr ⟨.inl rfl, rfl⟩
  · exact .inr ⟨.inr rfl, rfl⟩
  · exact .inl ⟨j, k, rfl, rfl, rfl⟩

/-- KCOMB_F: the slots stored, or no key count. -/
theorem execKcombF_cases (s : State) :
    (∃ n, keyCount? s.kcnt = some n ∧
      execKcombF s = .next ((s.storeSchedules .forward .reverse (combineF s.keys n)).complete .none)) ∨
    (keyCount? s.kcnt = none ∧ execKcombF s = .next (s.complete .keyCount)) := by
  unfold execKcombF
  rcases h : keyCount? s.kcnt with _ | n
  · exact .inr ⟨rfl, rfl⟩
  · exact .inl ⟨n, rfl, rfl⟩

/-- KCOMB_R: the slots stored, or no key count. -/
theorem execKcombR_cases (s : State) :
    (∃ n, keyCount? s.kcnt = some n ∧
      execKcombR s = .next ((s.storeSchedules .reverse .forward (combineR s.keys n)).complete .none)) ∨
    (keyCount? s.kcnt = none ∧ execKcombR s = .next (s.complete .keyCount)) := by
  unfold execKcombR
  rcases h : keyCount? s.kcnt with _ | n
  · exact .inr ⟨rfl, rfl⟩
  · exact .inl ⟨n, rfl, rfl⟩

/-- XFORM: BLK transformed, or an illegal index. -/
theorem execXform_cases (set : BitVec 2) (s : State) :
    (∃ j : Fin 3, index3? set = some j ∧
      execXform set s = .next ((s.writeBlk (transform s.blk s.rks[j])).complete .none)) ∨
    (index3? set = none ∧ execXform set s = .next (s.complete .illegalCommand)) := by
  unfold execXform
  rcases h : index3? set with _ | j
  · exact .inr ⟨rfl, rfl⟩
  · exact .inl ⟨j, rfl, rfl⟩

/-- INVOKE: BLK invoked through the store, or no key count. -/
theorem execInvoke_cases (s : State) :
    (∃ n, keyCount? s.kcnt = some n ∧
      execInvoke s = .next ((s.writeBlk (invoke s.blk (storedSchedules s.rks n))).complete .none)) ∨
    (keyCount? s.kcnt = none ∧ execInvoke s = .next (s.complete .keyCount)) := by
  unfold execInvoke
  rcases h : keyCount? s.kcnt with _ | n
  · exact .inr ⟨rfl, rfl⟩
  · exact .inl ⟨n, rfl, rfl⟩

/-- CBC_ENC: its first error, or the ciphertext and the chaining value. -/
theorem execCbcEnc_cases (s : State) :
    (∃ e, cbcOperands s = .error e ∧ execCbcEnc s = .next (s.complete e)) ∨
    (∃ o, cbcOperands s = .ok o ∧ execCbcEnc s = .next
      (((s.storeBytes o.dst (cbcEncrypt s.keys o.count s.iv (s.dmemSlice o.src o.length)).bytes).writeChain
        (cbcEncrypt s.keys o.count s.iv (s.dmemSlice o.src o.length)).chain).complete .none)) :=
  s.runCbc_cases cbcEncrypt length_cbcEncrypt

/-- CBC_DEC: its first error, or the plaintext and the chaining value. -/
theorem execCbcDec_cases (s : State) :
    (∃ e, cbcOperands s = .error e ∧ execCbcDec s = .next (s.complete e)) ∨
    (∃ o, cbcOperands s = .ok o ∧ execCbcDec s = .next
      (((s.storeBytes o.dst (cbcDecrypt s.keys o.count s.iv (s.dmemSlice o.src o.length)).bytes).writeChain
        (cbcDecrypt s.keys o.count s.iv (s.dmemSlice o.src o.length)).chain).complete .none)) :=
  s.runCbc_cases cbcDecrypt length_cbcDecrypt

/-- The CBC checks read neither STATUS nor the host side. -/
theorem cbcOperands_hostSide (s : State) (st : Status) (l d : Nat) (ho : List HostOp) (lg : List Response) :
    cbcOperands { s with status := st, latencyLeft := l, draws := d, host := ho, log := lg } = cbcOperands s := rfl

/-- What a command does depends neither on the W1C bits, the latency and the draws, nor on the host side, and it keeps
them, but for DONE. -/
theorem exec_hostSide (i : Instr) (s : State) (dn cl wl : Bool) (l d : Nat) (ho : List HostOp) (lg : List Response) :
    ∃ u, exec i s = .next u ∧
      exec i { s with
        status := { s.status with done := dn, cmdlost := cl, wlost := wl }
        latencyLeft := l, draws := d, host := ho, log := lg } =
      .next { u with
        status := { u.status with cmdlost := cl, wlost := wl }
        latencyLeft := l, draws := d, host := ho, log := lg } := by
  cases i with
  | kschedF a b =>
    simp only [exec, execKschedF]
    rcases index3? a with _ | j <;> rcases index3? b with _ | k <;> exact ⟨_, rfl, rfl⟩
  | kschedR a b =>
    simp only [exec, execKschedR]
    rcases index3? a with _ | j <;> rcases index3? b with _ | k <;> exact ⟨_, rfl, rfl⟩
  | kcombF =>
    simp only [exec, execKcombF]
    rcases keyCount? s.kcnt with _ | n
    · exact ⟨_, rfl, rfl⟩
    · simp only
      generalize combineF s.keys n = S
      cases S <;> exact ⟨_, rfl, rfl⟩
  | kcombR =>
    simp only [exec, execKcombR]
    rcases keyCount? s.kcnt with _ | n
    · exact ⟨_, rfl, rfl⟩
    · simp only
      generalize combineR s.keys n = S
      cases S <;> exact ⟨_, rfl, rfl⟩
  | xform a =>
    simp only [exec, execXform]
    rcases index3? a with _ | j <;> exact ⟨_, rfl, rfl⟩
  | invoke =>
    simp only [exec, execInvoke]
    rcases keyCount? s.kcnt with _ | n <;> exact ⟨_, rfl, rfl⟩
  | cbcEnc =>
    rcases execCbcEnc_cases s with ⟨e, he, h⟩ | ⟨o, ho', h⟩ <;> refine ⟨_, h, ?_⟩
    · simp only [exec, execCbcEnc, State.runCbc, cbcOperands_hostSide, he]; rfl
    · obtain ⟨_, _, _, _, _, hsrc, hdst, _⟩ := cbcOperands_ok s o ho'
      simp only [exec, execCbcEnc, State.runCbc, cbcOperands_hostSide, ho']
      rw [State.memRead_eq_some _ _ _ (by exact hsrc)]
      simp only []
      rw [State.memWrite_eq_some _ _ _ (by simpa [length_cbcEncrypt] using hdst)]
      generalize hc : cbcEncrypt s.keys o.count s.iv (s.dmemSlice o.src o.length) = c
      have hc' : cbcEncrypt s.keys o.count s.iv (State.dmemSlice { s with
          status := { s.status with done := dn, cmdlost := cl, wlost := wl }
          latencyLeft := l, draws := d, host := ho, log := lg } o.src o.length) = c := hc
      simp only [hc']
      rfl
  | cbcDec =>
    rcases execCbcDec_cases s with ⟨e, he, h⟩ | ⟨o, ho', h⟩ <;> refine ⟨_, h, ?_⟩
    · simp only [exec, execCbcDec, State.runCbc, cbcOperands_hostSide, he]; rfl
    · obtain ⟨_, _, _, _, _, hsrc, hdst, _⟩ := cbcOperands_ok s o ho'
      simp only [exec, execCbcDec, State.runCbc, cbcOperands_hostSide, ho']
      rw [State.memRead_eq_some _ _ _ (by exact hsrc)]
      simp only []
      rw [State.memWrite_eq_some _ _ _ (by simpa [length_cbcDecrypt] using hdst)]
      generalize hc : cbcDecrypt s.keys o.count s.iv (s.dmemSlice o.src o.length) = c
      have hc' : cbcDecrypt s.keys o.count s.iv (State.dmemSlice { s with
          status := { s.status with done := dn, cmdlost := cl, wlost := wl }
          latencyLeft := l, draws := d, host := ho, log := lg } o.src o.length) = c := hc
      simp only [hc']
      rfl

end Sys2Proof.Machine
end

