-- ==== Sys2Proof/Laws/Decode.lean ====
section
/-! SUPPORT. The command word as its low byte. -/

namespace Sys2Proof

/-- R71. A word whose RSVD field is 0 is its low byte with zeros above. -/
theorem word_of_rsvdField (w : U32) (h : rsvdField w = 0#24) : w = 0#24 ++ w.extractLsb' 0 8 := by
  apply BitVec.eq_of_getLsbD_eq
  intro j hj
  rw [BitVec.getLsbD_append]
  by_cases h8 : j < 8
  · simp [h8]
  · have := congrArg (fun v => v.getLsbD (j - 8)) h
    simp [rsvdField, BitVec.getLsbD_extractLsb'] at this
    simp [h8]
    have h2 : 8 + (j - 8) = j := by omega
    rw [h2] at this
    exact this (by omega)

/-- R74 b. Only a word whose RSVD field is 0 is a command. -/
theorem rsvdField_of_decode (w : U32) (i : Instr) (h : decode w = .ok i) : rsvdField w = 0#24 := by
  unfold decode at h
  split at h
  · cases h
  · rename_i h2; simpa using h2

end Sys2Proof
end

