-- ==== Sys2Proof/Laws/PerInstr.lean ====
section
/-! SUPPORT. Statements about every command as syntax, one lemma per constructor: the word of a command lies in its
match/mask row of R73. -/

namespace Sys2Proof.Laws.EncodeMatchesTable

/-- R73. The match column. -/
def matchWord : Instr → U32
  | .kschedF _ _ => 0x00000001#32
  | .kschedR _ _ => 0x00000002#32
  | .kcombF => 0x00000003#32
  | .kcombR => 0x00000004#32
  | .xform _ => 0x00000005#32
  | .invoke => 0x00000006#32
  | .cbcEnc => 0x00000008#32
  | .cbcDec => 0x00000009#32

/-- R73. The mask column. -/
def maskWord : Instr → U32
  | .kschedF _ _ => 0xFFFFFF0F#32
  | .kschedR _ _ => 0xFFFFFF0F#32
  | .kcombF => 0xFFFFFFFF#32
  | .kcombR => 0xFFFFFFFF#32
  | .xform _ => 0xFFFFFFCF#32
  | .invoke => 0xFFFFFFFF#32
  | .cbcEnc => 0xFFFFFFFF#32
  | .cbcDec => 0xFFFFFFFF#32

/-- R71, R73. The command's word lies in its row, and its reserved bits are 0. -/
def Statement (i : Instr) : Prop := encode i &&& maskWord i = matchWord i ∧ rsvdField (encode i) = 0#24

/-- KSCHED_F, every field value. -/
theorem kschedF : ∀ set ksel, Statement (.kschedF set ksel) := by unfold Statement; decide

/-- KSCHED_R, every field value. -/
theorem kschedR : ∀ set ksel, Statement (.kschedR set ksel) := by unfold Statement; decide

/-- KCOMB_F. -/
theorem kcombF : Statement .kcombF := by unfold Statement; decide

/-- KCOMB_R. -/
theorem kcombR : Statement .kcombR := by unfold Statement; decide

/-- XFORM, every field value. -/
theorem xform : ∀ set, Statement (.xform set) := by unfold Statement; decide

/-- INVOKE. -/
theorem invoke : Statement .invoke := by unfold Statement; decide

/-- CBC_ENC. -/
theorem cbcEnc : Statement .cbcEnc := by unfold Statement; decide

/-- CBC_DEC. -/
theorem cbcDec : Statement .cbcDec := by unfold Statement; decide

end Sys2Proof.Laws.EncodeMatchesTable
end

