-- ==== Sys2Proof/Laws/Schedule.lean ====
section
/-! SUPPORT. The key schedule bit by bit and round by round: rotations add up, each round key in closed form, and the padding
bits of a packed round key are 0. -/

namespace Sys2Proof.Machine

/-! ## Rotations -/

/-- A rotated 28-bit half, bit by bit. -/
theorem rotateLeft28_getLsbD (c : BitVec 28) (r i : Nat) (hi : i < 28) :
    (c.rotateLeft r).getLsbD i = c.getLsbD ((i + (28 - r % 28)) % 28) := by
  rw [BitVec.getLsbD_rotateLeft]
  by_cases h : i < r % 28
  · simp only [h, decide_true, cond_true]
    congr 1
    omega
  · simp only [h, hi, decide_false, decide_true, cond_false, Bool.true_and]
    congr 1
    omega

/-- A rotated 32-bit half, bit by bit. -/
theorem rotateLeft32_getLsbD (c : U32) (r i : Nat) (hi : i < 32) :
    (c.rotateLeft r).getLsbD i = c.getLsbD ((i + (32 - r % 32)) % 32) := by
  rw [BitVec.getLsbD_rotateLeft]
  by_cases h : i < r % 32
  · simp only [h, decide_true, cond_true]
    congr 1
    omega
  · simp only [h, hi, decide_false, decide_true, cond_false, Bool.true_and]
    congr 1
    omega

/-- Rotations of a half add up (R104). -/
theorem rotateLeft28_add (c : BitVec 28) (a b : Nat) : (c.rotateLeft a).rotateLeft b = c.rotateLeft (a + b) := by
  apply BitVec.eq_of_getLsbD_eq
  intro i hi
  rw [rotateLeft28_getLsbD _ _ _ hi, rotateLeft28_getLsbD _ _ _ (Nat.mod_lt _ (by decide)), rotateLeft28_getLsbD _ _ _ hi]
  congr 1
  omega

/-! ## Round keys -/

/-- R106. A byte of a round key, bit by bit: six bits of the selection in bits 5:0, nothing else. -/
theorem packByte_getLsbD (cd : BitVec 56) (j : Nat) (hj : j < 8) (b : Nat) :
    (packByte cd j).getLsbD b =
      (decide (b < 64) && decide (56 - 8 * j ≤ b) && decide (b < 56 - 8 * j + 6) &&
        pos cd (pc2vTable.getD (6 * j + (5 - (b - (56 - 8 * j)))) 0)) := by
  have hlen : ((pc2vTable.drop (6 * j)).take 6).length = 6 := by
    simp [pc2vTable]
    omega
  unfold packByte
  rw [BitVec.getLsbD_shiftLeft, permute_getLsbD, hlen]
  by_cases h1 : b < 64
  · by_cases h2 : 56 - 8 * j ≤ b
    · by_cases h3 : b < 56 - 8 * j + 6
      · have h4 : b - (56 - 8 * j) < 6 := by omega
        have h5 : b - (56 - 8 * j) < 64 := by omega
        have h6 : ¬ b < 56 - 8 * j := by omega
        have h7 : b - (56 - 8 * j) < ((pc2vTable.drop (6 * j)).take 6).length := by omega
        have h8 : 6 - 1 - (b - (56 - 8 * j)) < 6 := by omega
        simp only [h1, h2, h3, h4, h5, h6, decide_true, decide_false, Bool.true_and, Bool.not_false]
        rw [List.getD_eq_getElem?_getD, List.getElem?_reverse h7, hlen, List.getElem?_take, List.getElem?_drop,
          List.getD_eq_getElem?_getD]
        simp [h8]
      · have h4 : ¬ b - (56 - 8 * j) < 6 := by omega
        simp [h3, h4]
    · have h6 : b < 56 - 8 * j := by omega
      simp [h2, h6]
  · simp [h1]

/-- R30, R106. Zero padding, bit by bit. -/
theorem and_padding_eq_zero (a : U64) :
    a &&& 0xC0C0C0C0C0C0C0C0#64 = 0#64 ↔ ∀ j, j < 64 → 6 ≤ j % 8 → a.getLsbD j = false := by
  have hm : ∀ j, j < 64 → (0xC0C0C0C0C0C0C0C0#64).getLsbD j = decide (6 ≤ j % 8) := by decide
  constructor
  · intro h j hj h6
    have := congrArg (fun v => v.getLsbD j) h
    simpa [BitVec.getLsbD_and, hm j hj, h6] using this
  · intro h
    apply BitVec.eq_of_getLsbD_eq
    intro j hj
    rw [BitVec.getLsbD_and, hm j hj]
    by_cases h6 : 6 ≤ j % 8
    · simp [h j hj h6]
    · simp [h6]

/-- A fold of `|||` has a bit exactly when its start or one of its parts has it. -/
theorem foldl_or_getLsbD (f : Nat → U64) (l : List Nat) (acc : U64) (b : Nat) :
    (l.foldl (fun rk j => rk ||| f j) acc).getLsbD b = (acc.getLsbD b || l.any (fun j => (f j).getLsbD b)) := by
  induction l generalizing acc with
  | nil => simp
  | cons j l ih => simp [ih, Bool.or_assoc]

/-- R106. A round key, bit by bit: bit `b` comes from byte `7 - b / 8` of the round key. -/
theorem pack_getLsbD (cd : BitVec 56) (b : Nat) (hb : b < 64) :
    (pack cd).getLsbD b = (decide (b % 8 < 6) && pos cd (pc2vTable.getD (6 * (7 - b / 8) + (5 - b % 8)) 0)) := by
  rw [pack, foldl_or_getLsbD]
  have hj : 7 - b / 8 < 8 := by omega
  have other : ∀ j, j < 8 → j ≠ 7 - b / 8 → (packByte cd j).getLsbD b = false := by
    intro j hj hne
    rw [packByte_getLsbD cd j hj]
    by_cases h2 : 56 - 8 * j ≤ b
    · have h3 : ¬ b < 56 - 8 * j + 6 := by omega
      simp [h3]
    · simp [h2]
  have self : (packByte cd (7 - b / 8)).getLsbD b =
      (decide (b % 8 < 6) && pos cd (pc2vTable.getD (6 * (7 - b / 8) + (5 - b % 8)) 0)) := by
    rw [packByte_getLsbD cd _ hj]
    have h1 : 56 - 8 * (7 - b / 8) = b - b % 8 := by omega
    have h2 : b - b % 8 ≤ b := by omega
    have h3 : (b < b - b % 8 + 6) ↔ b % 8 < 6 := by omega
    have h4 : b - (b - b % 8) = b % 8 := by omega
    simp [h1, h2, h3, h4, hb]
  rw [← self]
  have hmem : 7 - b / 8 ∈ List.range 8 := by simp [hj]
  by_cases hs : (packByte cd (7 - b / 8)).getLsbD b = true
  · rw [hs]
    simp only [BitVec.getLsbD_zero, Bool.false_or, List.any_eq_true]
    exact ⟨_, hmem, hs⟩
  · simp only [BitVec.getLsbD_zero, Bool.false_or]
    rw [Bool.not_eq_true] at hs
    rw [hs, List.any_eq_false]
    intro j hj
    by_cases hne : j = 7 - b / 8
    · rw [hne, hs]
      simp
    · rw [other j (by simpa using hj) hne]
      simp

/-- R106. Every packed round key has zero padding. -/
theorem pack_padding (cd : BitVec 56) : pack cd &&& 0xC0C0C0C0C0C0C0C0#64 = 0#64 := by
  rw [and_padding_eq_zero]
  intro j hj h6
  rw [pack_getLsbD cd j hj]
  have : ¬ j % 8 < 6 := by omega
  simp [this]

/-! ## Schedules -/

/-- R104, R120. A round of the forward schedule in closed form: the amounts so far add up. -/
theorem scheduleRounds_getElem (rs : List Nat) (c d : BitVec 28) (i : Nat) (h : i < (scheduleRounds rs c d).length) :
    (scheduleRounds rs c d)[i] =
      pack (c.rotateLeft (rs.take (i + 1)).sum ++ d.rotateLeft (rs.take (i + 1)).sum) := by
  induction rs generalizing c d i with
  | nil => simp [scheduleRounds] at h
  | cons r rs ih =>
    cases i with
    | zero => simp [scheduleRounds]
    | succ i =>
      have := ih (c.rotateLeft r) (d.rotateLeft r) i (by simpa [scheduleRounds] using h)
      simp only [scheduleRounds, List.getElem_cons_succ, this, rotateLeft28_add, List.take_succ_cons, List.sum_cons]

/-- R120. A round key of the forward schedule in closed form. -/
theorem scheduleF_getElem (key : U64) (i : Nat) (h : i < 16) :
    (scheduleF key)[i] =
      pack ((keyC key).rotateLeft (rotTable.take (i + 1)).sum ++ (keyD key).rotateLeft (rotTable.take (i + 1)).sum) := by
  have : (scheduleF key)[i] =
      (scheduleRounds rotTable (keyC key) (keyD key))[i]'(by rw [length_scheduleRounds]; exact h) := by
    simp [scheduleF]
  rw [this, scheduleRounds_getElem]

/-- R122. A round key of the reverse schedule. -/
theorem scheduleR_getElem (key : U64) (i : Nat) (h : i < 16) : (scheduleR key)[i] = (scheduleF key)[15 - i] := by
  simp [scheduleR]

/-- R122. The reverse schedule as a list. -/
theorem scheduleR_toList (key : U64) : (scheduleR key).toList = (scheduleF key).toList.reverse := by
  simp [scheduleR]

/-- R122. Keys of one forward schedule have one reverse schedule. -/
theorem scheduleR_congr (key key' : U64) (h : scheduleF key = scheduleF key') : scheduleR key = scheduleR key' := by
  apply Vector.ext
  intro i hi
  rw [scheduleR_getElem key i hi, scheduleR_getElem key' i hi, h]

/-- R30. Every round key of a forward schedule has zero padding. -/
theorem scheduleF_padding (key : U64) (i : Nat) (h : i < 16) : (scheduleF key)[i] &&& 0xC0C0C0C0C0C0C0C0#64 = 0#64 := by
  rw [scheduleF_getElem key i h]
  exact pack_padding _

/-- R30. Every round key of a reverse schedule has zero padding. -/
theorem scheduleR_padding (key : U64) (i : Nat) (h : i < 16) : (scheduleR key)[i] &&& 0xC0C0C0C0C0C0C0C0#64 = 0#64 := by
  rw [scheduleR_getElem key i h]
  exact scheduleF_padding key _ (by omega)

end Sys2Proof.Machine
end

