-- ==== Sys2Proof/Laws/Step.lean ====
section
/-! SUPPORT. What one step does, case by case: the core's completion, or the host's next access with or without a command
in flight. -/

namespace Sys2Proof.Machine

/-- With its latency run out, the command in flight completes. -/
theorem step_complete (s : State) (hb : s.status.busy = true) (hl : s.latencyLeft = 0) : step s = runCommand s := by
  simp only [step, advance, hb, hl, if_true]

/-- Before that, the host performs its next access. -/
theorem step_inFlight (s : State) (n : Nat) (hb : s.status.busy = true) (hl : s.latencyLeft = n + 1) :
    step s = .next (s.tick n).hostStep := by
  simp only [step, advance, hb, hl, if_true]

/-- With no command in flight, the host performs its next access. -/
theorem step_idle (s : State) (hb : s.status.busy = false) : step s = .next s.hostStep := by
  simp [step, advance, hb]

/-- A decoded word in CMD runs as its command. -/
theorem runCommand_ok (s : State) (i : Instr) (h : decode s.cmd = .ok i) : runCommand s = exec i s := by
  simp only [runCommand, h]

/-- A word that decodes to nothing completes with IllegalCommand (R74). -/
theorem runCommand_error (s : State) (e : IllegalWord) (h : decode s.cmd = .error e) :
    runCommand s = .next (s.complete .illegalCommand) := by
  simp only [runCommand, h, State.raise]

/-- The host has nothing left to do. -/
theorem hostStep_nil (s : State) (h : s.host = []) : s.hostStep = s := by
  simp only [State.hostStep, h]

/-- The host's next access is a read. -/
theorem hostStep_read (s : State) (addr : Nat) (w : Width) (rest : List HostOp) (h : s.host = .read addr w :: rest) :
    s.hostStep = (s.hostRead addr w).1.answered rest (s.hostRead addr w).2 := by
  simp only [State.hostStep, h]

/-- The host's next access is a write. -/
theorem hostStep_write (s : State) (addr : Nat) (d : WriteData) (rest : List HostOp)
    (h : s.host = .write addr d :: rest) :
    s.hostStep = (s.hostWrite addr d).1.answered rest (s.hostWrite addr d).2 := by
  simp only [State.hostStep, h]

/-- R33, R242. STATUS reads its current value at any time. -/
theorem hostRead_status (s : State) :
    s.hostRead (s.params.base + 0x004) .word = (s, .data32 (statusWord s.status)) := by
  rw [State.hostRead_add _ _ _ (by omega), State.hostReadAt_some s 0x004 .word _ (target?_reg s.params 0x004 .status (by omega) rfl)]
  simp [State.hostReadTarget, unspecifiedWhileBusy, State.readTarget, State.readReg]

/-- The host's next access is `wait`: it reads STATUS, and stays while BUSY = 1 (R76). -/
theorem hostStep_wait (s : State) (rest : List HostOp) (h : s.host = .wait :: rest) :
    s.hostStep = s.answered (if s.status.busy then .wait :: rest else rest) (.data32 (statusWord s.status)) := by
  simp only [State.hostStep, h, hostRead_status]

/-- The host's next access is a reset (R230, R231). -/
theorem hostStep_reset (s : State) (rest : List HostOp) (h : s.host = .reset :: rest) :
    s.hostStep = State.afterReset s.params (Config.sourceAfterReset s) s.draws rest s.log := by
  simp only [State.hostStep, h]

/-- R32, R241. A word written to CMD: accepted, or lost while BUSY = 1. -/
theorem hostWrite_cmd (s : State) (w : U32) :
    s.hostWrite (s.params.base + 0x000) (.word w) =
      (if s.status.busy then s.loseCommand else s.accept w, .written) := by
  rw [State.hostWrite_add _ _ _ (by omega),
    State.hostWriteAt_some s 0x000 (.word w) _ (target?_reg s.params 0x000 .cmd (by omega) rfl)]
  rfl

/-- A run of no steps. -/
@[simp] theorem steps_zero (s : State) : steps 0 s = .next s := rfl

/-- A run, from its first step. -/
theorem steps_succ (n : Nat) (s t : State) (h : step s = .next t) : steps (n + 1) s = steps n t := by
  simp only [steps, h]

/-- Two runs, one after the other. -/
theorem steps_add (m n : Nat) (s t : State) (h : steps m s = .next t) : steps (m + n) s = steps n t := by
  induction m generalizing s with
  | zero => cases h; simp
  | succ m ih =>
    rw [show m + 1 + n = m + n + 1 by omega]
    simp only [steps] at h ⊢
    split at h <;> first | exact ih _ h | cases h

end Sys2Proof.Machine
end

