-- ==== Sys2Proof/Laws/Transform.lean ====
section
/-! SUPPORT. Running the Feistel rounds backwards, and the permutations around them. -/

namespace Sys2Proof.Machine

/-! ## The permutations -/

/-- Two tables of 64 entries that name each other's positions undo each other. -/
theorem permute_permute (T U : List Nat) (hT : T.length = 64) (hU : U.length = 64)
    (h : ∀ j < 64, 64 - U.reverse.getD j 0 < 64 ∧ 64 - T.reverse.getD (64 - U.reverse.getD j 0) 0 = j) (v : U64) :
    permute 64 U (permute 64 T v) = v := by
  apply BitVec.eq_of_getLsbD_eq
  intro j hj
  obtain ⟨h1, h2⟩ := h j hj
  rw [permute_getLsbD, hU]
  simp only [hj, decide_true, Bool.true_and]
  rw [pos, permute_getLsbD, hT]
  simp only [h1, decide_true, Bool.true_and]
  rw [pos, h2]

/-- R102. IP after IP_INV. -/
theorem initialPermutation_inverse (v : U64) : initialPermutation (inversePermutation v) = v :=
  permute_permute _ _ rfl rfl (by decide +kernel) v

/-- R102. IP_INV after IP. -/
theorem inversePermutation_initial (v : U64) : inversePermutation (initialPermutation v) = v :=
  permute_permute _ _ rfl rfl (by decide +kernel) v

/-! ## The rounds -/

/-- The halves exchanged. -/
def Halves.swap (h : Halves) : Halves := { high := h.low, low := h.high }

@[simp] theorem Halves.swap_swap (h : Halves) : h.swap.swap = h := rfl

/-- R142. Two halves, joined and split. -/
@[simp] theorem splitHalves_append (a b : U32) : splitHalves (a ++ b) = { high := a, low := b } := by
  simp [splitHalves, hi_append, lo_append]

/-- R142. A block, split and joined. -/
theorem append_splitHalves (v : U64) : (splitHalves v).high ++ (splitHalves v).low = v := by
  apply BitVec.eq_of_getLsbD_eq
  intro j hj
  have : ((splitHalves v).high ++ (splitHalves v).low : BitVec (32 + 32)).getLsbD j = _ := BitVec.getLsbD_append
  refine this.trans ?_
  by_cases h : j < 32
  · simp [h, splitHalves]
  · simp [h, splitHalves, show j - 32 < 32 by omega, show 32 + (j - 32) = j by omega]

/-- R141. One round, on the exchanged halves, undoes itself. -/
theorem feistelRound_swap (h : Halves) (rk : U64) : feistelRound (feistelRound h rk).swap rk = h.swap := by
  simp [feistelRound, Halves.swap]

/-- R141. The rounds under reversed round keys, on the exchanged halves, undo the rounds. -/
theorem feistel_reverse (ks : List U64) (h : Halves) :
    ks.reverse.foldl feistelRound (ks.foldl feistelRound h).swap = h.swap := by
  induction ks generalizing h with
  | nil => rfl
  | cons k ks ih => simp [ih, feistelRound_swap]

/-- R142. The transform, as the rounds between the permutations. -/
theorem transform_eq (x : U64) (K : RoundKeySet) :
    transform x K =
      inversePermutation ((K.toList.foldl feistelRound (splitHalves (initialPermutation x))).low ++
        (K.toList.foldl feistelRound (splitHalves (initialPermutation x))).high) := rfl

/-- R142, R143. The transform under a set of reversed round keys undoes the transform. -/
theorem transform_reverse (x : U64) (K K' : RoundKeySet) (h : K'.toList = K.toList.reverse) :
    transform (transform x K) K' = x := by
  have key := feistel_reverse K.toList (splitHalves (initialPermutation x))
  rw [transform_eq (transform x K) K', h, transform_eq x K, initialPermutation_inverse, splitHalves_append]
  simp only [Halves.swap] at key
  rw [key]
  simp only [append_splitHalves, inversePermutation_initial]

end Sys2Proof.Machine
end

