-- ==== Sys2Proof/Tests/Slice0.lean ====
section
/-! SUPPORT. The model's own tests, their expected values taken from spec/95_test_vectors.md and from the encodings of
spec/30_encoding.md; and for each statement with hypotheses a concrete input that meets all of them. -/

namespace Sys2Proof.Tests

open Sys2Proof.Machine Sys2Proof.Statements

/-! ## Helpers -/

/-- The sample keys of 95_test_vectors.md. -/
def sampleKeys : Vector U64 3 := #v[0x0123456789ABCDEF#64, 0x23456789ABCDEF01#64, 0x456789ABCDEF0123#64]

/-- "Now is the ti" in ASCII. -/
def sampleText : List Byte :=
  [0x4E#8, 0x6F#8, 0x77#8, 0x20#8, 0x69#8, 0x73#8, 0x20#8, 0x74#8, 0x68#8, 0x65#8, 0x20#8, 0x74#8, 0x69#8]

/-- V-CBC-4c: its ciphertext under the three sample keys. -/
def sampleCipher : List Byte :=
  [0xF3#8, 0xC0#8, 0xFF#8, 0x02#8, 0x6C#8, 0x02#8, 0x30#8, 0x89#8, 0xC6#8, 0x40#8, 0x88#8, 0x66#8, 0xF3#8]

/-- Idle after reset, with the sample keys and IV, three keys, and `text` at DMEM offset 0x20 as the in-place buffer. -/
def ready (text : List Byte) : State :=
  { State.reset with
    keys := sampleKeys
    iv := 0x1234567890ABCDEF#64
    kcnt := 3#32
    len := BitVec.ofNat 32 text.length
    src := 0x20#32
    dst := 0x20#32
    blk := 0x4E6F772069732074#64
    dmem := Memory.setBytes [] 0x20 text }

/-- `ready` with two disjoint buffers. -/
def apart (text : List Byte) : State := { ready text with dst := 0x40#32 }

/-- The command word `w` in flight with `n` steps of its latency left. -/
def inFlight (s : State) (w : U32) (n : Nat) : State := { s.withCommand w with latencyLeft := n }

/-- `s` with accesses for the host to make. -/
def hosted (s : State) (ops : List HostOp) : State := { s with host := ops }

/-- One value of the next state. -/
def after {α : Type} (f : State → α) : Host.Outcome State Fault Refusal → Option α
  | .next t => some (f t)
  | .fault _ => none
  | .refused _ => none

/-- STATUS after one step with the word `w` in flight, from the setup of 95_test_vectors.md section 8. -/
def statusAfter (w kcnt len src dst : U32) : Option U32 :=
  after (fun t => statusWord t.status)
    (step (inFlight { State.reset with kcnt := kcnt, len := len, src := src, dst := dst } w 0))

/-! ## Well-formed terms: each check refuses an ill-formed one -/

theorem test_wf_kschedF_set : (Instr.kschedF 3 0).wellFormed = false := by decide
theorem test_wf_kschedF_ksel : (Instr.kschedF 0 3).wellFormed = false := by decide
theorem test_wf_kschedR_set : (Instr.kschedR 3 2).wellFormed = false := by decide
theorem test_wf_kschedR_ksel : (Instr.kschedR 2 3).wellFormed = false := by decide
theorem test_wf_xform_set : (Instr.xform 3).wellFormed = false := by decide
theorem test_wf_accepts : (Instr.kschedR 2 2).wellFormed = true ∧ (Instr.xform 2).wellFormed = true := by decide

/-! ## Decoding: words written out field by field from R71 (RSVD, KSEL, SET, OP) -/

theorem test_decode_kschedF : decode 0b000000000000000000000000_01_10_0001#32 = .ok (.kschedF 2 1) := by decide
theorem test_decode_kschedR : decode 0b000000000000000000000000_10_01_0010#32 = .ok (.kschedR 1 2) := by decide
theorem test_decode_kcombF : decode 0b000000000000000000000000_00_00_0011#32 = .ok .kcombF := by decide
theorem test_decode_kcombR : decode 0b000000000000000000000000_00_00_0100#32 = .ok .kcombR := by decide
theorem test_decode_xform : decode 0b000000000000000000000000_00_10_0101#32 = .ok (.xform 2) := by decide
theorem test_decode_invoke : decode 0b000000000000000000000000_00_00_0110#32 = .ok .invoke := by decide
theorem test_decode_cbcEnc : decode 0b000000000000000000000000_00_00_1000#32 = .ok .cbcEnc := by decide
theorem test_decode_cbcDec : decode 0b000000000000000000000000_00_00_1001#32 = .ok .cbcDec := by decide

/-- R74 a. Every unused OP value. -/
theorem test_decode_opcodes : ∀ op ∈ [0x0#4, 0x7#4, 0xA#4, 0xB#4, 0xC#4, 0xD#4, 0xE#4, 0xF#4],
    decode (commandWord op 0 0) = .error .opcode := by decide +kernel

/-- R74 b. The lowest and the highest reserved bit. -/
theorem test_decode_reserved : decode 0x00000101#32 = .error .reservedBits ∧ decode 0x80000006#32 = .error .reservedBits := by
  decide

/-- V-ERR-6, V-INV-5. SET in a command that does not use it. -/
theorem test_decode_unused : decode 0x00000018#32 = .error .unusedField ∧ decode 0x00000016#32 = .error .unusedField := by
  decide

theorem test_decodeTableWord : decodeTableWord 32 0x9 = some .cbcDec ∧ decodeTableWord 32 0xA = none := by decide

/-! ## Tables (95_test_vectors.md sections 2 and 3) -/

theorem test_ip : initialPermutation 0x0123456789ABCDEF#64 = 0xCC00CCFFF0AAF0AA#64 := by decide +kernel

/-- V-TAB-3. The key positions PC1 does not select. -/
theorem test_pc1_missing : ∀ p ∈ List.range' 1 64, p ∉ pc1Table ↔ p % 8 = 0 := by decide

/-- V-TAB-4. The positions of C || D that PC2V does not select, and no duplicate. -/
theorem test_pc2v_missing :
    (List.range' 1 56).filter (fun p => p ∉ pc2vTable) = [9, 18, 22, 25, 35, 38, 43, 54] ∧ pc2vTable.Nodup := by decide

/-- SP sample entries at index 0. -/
theorem test_sp_first : [sp1, sp2, sp3, sp4, sp5, sp6, sp7, sp8].map (fun T => spLookup T 0) =
    [0x00808200#32, 0x40084010#32, 0x00000104#32, 0x80401000#32, 0x00000080#32, 0x10000008#32, 0x00100000#32,
      0x08000820#32] := by decide

/-- SP sample entries at index 32. -/
theorem test_sp_middle : [sp1, sp2, sp3, sp4, sp5, sp6, sp7, sp8].map (fun T => spLookup T 32) =
    [0x00008000#32, 0x00000000#32, 0x04010100#32, 0x00400040#32, 0x00040000#32, 0x10002000#32, 0x02000000#32,
      0x00020820#32] := by decide

/-- V-F-1, V-F-4. -/
theorem test_roundFunction : roundFunction 0#32 0#64 = 0xD8D8DBBC#32 ∧
    roundFunction 0xF0AAF0AA#32 0x060B3F01302F0732#64 = 0x234AA9BB#32 := by decide

/-- V-F-2, V-F-3: padding bits do not count. -/
theorem test_roundFunction_padding : roundFunction 0xFFFFFFFF#32 0#64 = 0x38DBF9CB#32 ∧
    roundFunction 0#32 0xFFFFFFFFFFFFFFFF#64 = 0x38DBF9CB#32 := by decide

/-! ## Commands, one step each from the word in flight -/

/-- The sample state with KEY0 = 133457799BBCDFF1 and BLK = 0123456789ABCDEF. -/
def fips : State :=
  { ready [] with keys := sampleKeys.set 0 0x133457799BBCDFF1#64, blk := 0x0123456789ABCDEF#64 }

/-- V-KS-1: round keys 0, 6 and 15, and the tag. -/
theorem test_kschedF : after (fun t => (t.rks[0][0], t.rks[0][6], t.rks[0][15], t.rksDir))
    (step (fips.withFetchWord 32 0x00000001)) =
      some (0x060B3F01302F0732#64, 0x3B123D220837213C#64, 0x3236031F330B2135#64, 0b000#3) := by decide +kernel

/-- V-KS-2: set 1 written in Reverse order, set 0 kept, and the tag. -/
theorem test_kschedR : after (fun t => (t.rks[1][0], t.rks[1][15], t.rks[0][0], t.rksDir))
    (step (fips.withFetchWord 32 0x00000012)) =
      some (0x3236031F330B2135#64, 0x060B3F01302F0732#64, 0x0000000000000000#64, 0b010#3) := by decide +kernel

/-- V-KS-6, three keys. -/
theorem test_kcombF : after (fun t => (t.rks[0][0], t.rks[1][0], t.rks[2][0], t.rksDir))
    (step ((ready []).withFetchWord 32 0x00000003)) =
      some (0x0209262630273425#64, 0x2D04021A29052135#64, 0x2904021E29252131#64, 0b010#3) := by decide +kernel

/-- V-KS-6, three keys: key 2 in set 0, key 0 in set 2. -/
theorem test_kcombR : after (fun t => (t.rks[0][0], t.rks[1][0], t.rks[2][0], t.rksDir))
    (step ((ready []).withFetchWord 32 0x00000004)) =
      some (0x193C0A382E20130A#64, 0x32342E0023030732#64, 0x32342E0023030732#64, 0b101#3) := by decide +kernel

/-- V-XF-1. -/
theorem test_xform : after (fun t => t.blk)
    (step ({ fips with rks := fips.rks.set 1 (scheduleF 0x133457799BBCDFF1#64) }.withFetchWord 32 0x00000015)) =
      some 0x85E813540F0AB405#64 := by decide +kernel

/-- V-XF-2b: the all-zero set that reset leaves. -/
theorem test_xform_reset : after (fun t => t.blk) (step (State.reset.withFetchWord 32 0x00000005)) =
    some 0x8CA64DE9C1B123A7#64 := by decide +kernel

/-- V-INV-2: two keys, set 0 used twice, set 2 not read. -/
theorem test_invoke_two : after (fun t => t.blk)
    (step ({ ready [] with
      kcnt := 2#32
      rks := #v[scheduleF sampleKeys[0], scheduleR sampleKeys[1], scheduleF 0xFF#64] }.withFetchWord 32 0x00000006)) =
      some 0xB7835779EE26ACB7#64 := by decide +kernel

/-- V-INV-3: three keys. -/
theorem test_invoke_three : after (fun t => t.blk)
    (step ({ ready [] with
      rks := #v[scheduleF sampleKeys[0], scheduleR sampleKeys[1], scheduleF sampleKeys[2]] }.withFetchWord 32 0x00000006)) =
      some 0x314F8327FA7A09A8#64 := by decide +kernel

/-- V-CBC-4c: one full block and a tail, in place. -/
theorem test_cbcEnc : after (fun t => (t.dmemSlice 0x20 13, t.chain))
    (step ((ready sampleText).withFetchWord 32 0x00000008)) = some (sampleCipher, 0xF3C0FF026C023089#64) := by decide +kernel

/-- V-CBC-3a: a buffer with no full block, one key. -/
theorem test_cbcEnc_short : after (fun t => (t.dmemSlice 0x40 5, t.chain))
    (step ({ apart (sampleText.take 5) with kcnt := 1#32 }.withFetchWord 32 0x00000008)) =
      some ([0xF3#8, 0x09#8, 0x62#8, 0x49#8, 0xC7#8], 0x1234567890ABCDEF#64) := by decide +kernel

/-- V-CBC-4c backwards, disjoint buffers. -/
theorem test_cbcDec : after (fun t => (t.dmemSlice 0x40 13, t.chain))
    (step ((apart sampleCipher).withFetchWord 32 0x00000009)) = some (sampleText, 0xF3C0FF026C023089#64) := by decide +kernel

/-- V-CBC-10: a buffer with no full block. -/
theorem test_cbcDec_short : after (fun t => t.dmemSlice 0x20 5)
    (step ({ ready [0xF3#8, 0x09#8, 0x62#8, 0x49#8, 0xC7#8] with kcnt := 1#32 }.withFetchWord 32 0x00000009)) =
      some (sampleText.take 5) := by decide +kernel

/-! ## Errors (95_test_vectors.md section 8) -/

theorem test_err_1 : statusAfter 0x8#32 1#32 0#32 0#32 8#32 = some 0x00000012#32 := by decide
theorem test_err_2 : statusAfter 0x8#32 1#32 0x80000000#32 0#32 8#32 = some 0x00000012#32 := by decide
theorem test_err_3 : statusAfter 0x9#32 0#32 8#32 0#32 8#32 = some 0x00000022#32 := by decide
theorem test_err_5 : statusAfter 0x8#32 0#32 0#32 0#32 8#32 = some 0x00000012#32 := by decide
theorem test_err_6 : statusAfter 0x18#32 1#32 0#32 0#32 8#32 = some 0x00000032#32 := by decide
theorem test_err_9 : statusAfter 0x8#32 1#32 8#32 0xFFC#32 8#32 = some 0x00000042#32 := by decide
theorem test_err_11 : statusAfter 0x8#32 1#32 0x7FFFFFFF#32 0#32 8#32 = some 0x00000042#32 := by decide
theorem test_err_12 : statusAfter 0x8#32 0#32 8#32 0xFFC#32 8#32 = some 0x00000022#32 := by decide
theorem test_err_13 : statusAfter 0x8#32 1#32 8#32 0#32 4#32 = some 0x00000052#32 := by decide
theorem test_err_14 : statusAfter 0x8#32 1#32 8#32 0xFFC#32 0xFF8#32 = some 0x00000042#32 := by decide

/-- V-INV-5, V-KS-7: no key count. -/
theorem test_err_count : statusAfter 0x6#32 4#32 0#32 0#32 0#32 = some 0x00000022#32 ∧
    statusAfter 0x3#32 0x80000001#32 0#32 0#32 0#32 = some 0x00000022#32 := by decide

/-! ## The bus (95_test_vectors.md section 8) -/

theorem test_bus_1 : (ready []).hostRead 0x04C .word = (ready [], .busError) := by decide
theorem test_bus_2 : (ready []).hostWrite 0x580 (.word 1#32) = (ready [], .busError) := by decide
theorem test_bus_3 : (ready []).hostRead 0x008 .byte = (ready [], .busError) := by decide
theorem test_bus_4 : (ready []).hostRead 0x1002 .word = (ready [], .busError) := by decide
theorem test_bus_5 : (ready sampleText).hostRead 0x1022 .byte = (ready sampleText, .data8 0x77#8) := by decide
theorem test_bus_6 : (ready []).hostRead 0x2000 .word = (ready [], .busError) := by decide
theorem test_bus_7 : (ready []).hostWrite 0x040 (.word 5#32) = (ready [], .written) := by decide

/-- V-BUS-8. -/
theorem test_bus_8 : statusWord (statusWritten (statusCompleted State.reset.status .length) 0xFFFFFFFF#32) = 0x00000010#32 := by
  decide

/-- Big-endian lanes (R54): program P3 line 6 read through the bus. -/
theorem test_bus_lanes : ((ready sampleCipher).hostRead 0x1024 .word).2 = .data32 0x6C023089#32 := by decide

/-- V-BSY-1, V-BSY-3. -/
theorem test_busy_1 : ((inFlight (ready []) 0x6#32 5).hostWrite 0x008 (.word 2#32)).1.kcnt = 3#32 ∧
    statusWord ((inFlight (ready []) 0x6#32 5).hostWrite 0x008 (.word 2#32)).1.status = 0x201#32 ∧
    ((inFlight (ready []) 0x6#32 5).hostRead 0x008 .word).2 = .data32 3#32 := by decide

/-- V-BSY-2. -/
theorem test_busy_2 : ((inFlight (ready []) 0x8#32 5).hostWrite 0x000 (.word 6#32)).1.cmd = 8#32 ∧
    statusWord ((inFlight (ready []) 0x8#32 5).hostWrite 0x000 (.word 6#32)).1.status = 0x101#32 := by decide

/-- R31, R80. RKS_DIR reads at 0x048, and `ack` of R76 is the word 0x302 at 0x004. -/
theorem test_rksDir_word : ({ ready [] with rksDir := 0b101#3 }.hostRead 0x048 .word).2 = .data32 5#32 ∧
    ack Params.standard = [.write 0x004 (.word 0x302#32)] := by decide

/-! ## Witnesses: for each statement with hypotheses, concrete inputs that meet all of them, at the ends of their ranges -/

/-- The running command of the witnesses: INVOKE with five steps of latency left, and accesses for the host to make. -/
def running : State :=
  hosted (inFlight (ready sampleText) 0x6#32 5) [.write 0x008 (.word 2#32), .read 0x1022 .byte, .wait]

/-- An instance that is not at address 0. -/
def elsewhere : Params := { base := 0x30000, dmemBytes := 4096 }

theorem witness_DecodeEncodeAgree : (Instr.kschedR 2 1).wellFormed = true ∧ (Instr.kschedF 0 2).wellFormed = true ∧
    (Instr.xform 2).wellFormed = true ∧ decode 0x00000062#32 = .ok (.kschedR 2 1) := by decide

/-- A word under each of (a) to (d), and an accepted one. -/
theorem witness_IllegalWordsOfR74 :
    (∀ w ∈ [0x7#32, 0xF#32, 0x101#32, 0x80000001#32, 0x31#32, 0xC1#32, 0x35#32, 0x13#32, 0x43#32, 0x45#32],
      illegalByRule w) ∧ ¬ illegalByRule 0xA2#32 ∧ (inFlight (ready []) 0x18#32 0).status.busy = true ∧
      (inFlight (ready []) 0x18#32 0).latencyLeft = 0 ∧ illegalByRule (inFlight (ready []) 0x18#32 0).cmd := by
  refine ⟨?_, ?_, by decide, by decide, ?_⟩ <;> simp [illegalByRule, inFlight, State.withCommand]

theorem witness_StepRunsTheDecodedCommand :
    ((inFlight (ready []) 0x9#32 0).status.busy = true ∧ (inFlight (ready []) 0x9#32 0).latencyLeft = 0 ∧
      decode (inFlight (ready []) 0x9#32 0).cmd = .ok .cbcDec) ∧
    decodeTableWord 32 0x25 = some (.xform 2) ∧
    (hosted (ready []) [.read 0x1FFF .byte, .wait]).host = .read 0x1FFF .byte :: [.wait] ∧
    ((hosted running [.write 0x008 (.word 2#32)]).host = .write 0x008 (.word 2#32) :: [] ∧
      (hosted running [.write 0x008 (.word 2#32)]).status.busy = true ∧
      (hosted running [.write 0x008 (.word 2#32)]).latencyLeft = 4 + 1) ∧
    ((ready []).status.busy = false ∧ (ready []).host = []) := by decide

theorem witness_CommandWordIsAccepted :
    (hosted (ready []) [.write 0x000 (.word 0x18#32), .wait]).status.busy = false ∧
    (hosted (ready []) [.write 0x000 (.word 0x18#32), .wait]).host =
      .write ((ready []).params.base + 0x000) (.word 0x18#32) :: [.wait] := by decide

theorem witness_CommandWrittenWhileBusyIsDropped :
    (hosted running [.write 0x000 (.word 8#32)]).status.busy = true ∧
    (hosted running [.write 0x000 (.word 8#32)]).latencyLeft = 4 + 1 ∧
    (hosted running [.write 0x000 (.word 8#32)]).host = .write (running.params.base + 0x000) (.word 8#32) :: [] := by decide

/-- Both clauses. -/
theorem witness_WaitPollsUntilIdle :
    ((hosted running [.wait]).host = .wait :: [] ∧ (hosted running [.wait]).status.busy = true ∧
      (hosted running [.wait]).latencyLeft = 4 + 1) ∧
    ((hosted (ready []) [.wait]).host = .wait :: [] ∧ (hosted (ready []) [.wait]).status.busy = false) := by decide

/-- A state that has the invariant: a command in flight, DMEM written to its last byte, every bit of RKS that is no padding set. -/
def full : State :=
  { running with
    rks := Vector.replicate 3 (Vector.replicate 16 0x3F3F3F3F3F3F3F3F#64)
    dmem := Memory.setBytes [] 4083 sampleText }

theorem witness_StepKeepsTheInvariant : Inv full ∧ ∃ t, step full = .next t :=
  ⟨{ params := by decide
     dmem := ⟨by decide, by decide⟩
     padding := by unfold paddingZero; decide
     inFlight := by decide
     idle := by decide
     drawn := by decide }, _, step_inFlight full 4 rfl rfl⟩

/-- The least and the greatest DMEM. -/
theorem witness_ResetHasTheInvariant : Params.Legal { base := 0x30000, dmemBytes := 8 } ∧
    Params.Legal { base := 0, dmemBytes := 0x8000 } := by decide

theorem witness_CommandInFlightCompletes : running.status.busy = true ∧ (∀ op ∈ running.host, op ≠ .reset) := by decide

theorem witness_ResultDoesNotDependOnLatency : running.status.busy = true ∧ (∀ op ∈ running.host, op ≠ .reset) ∧
    after (fun t => t.status.busy) (steps (running.latencyLeft + 1) running) = some false := by decide +kernel

/-- With a command in flight and without. -/
theorem witness_ResetAbandonsTheCommand :
    ((hosted running [.reset]).host = .reset :: [] ∧
      ((hosted running [.reset]).status.busy = true → (hosted running [.reset]).latencyLeft ≠ 0)) ∧
    ((hosted (ready []) [.reset]).host = .reset :: [] ∧
      ((hosted (ready []) [.reset]).status.busy = true → (hosted (ready []) [.reset]).latencyLeft ≠ 0)) := by decide

theorem witness_RegisterMapOfR80 : (ready []).status.busy = false := by decide

/-- The last round key. -/
theorem witness_RksWindowOfR81 : { full with status := State.reset.status }.status.busy = false ∧
    { full with status := State.reset.status }.rks[(2 : Fin 3)][(15 : Fin 16)] = 0x3F3F3F3F3F3F3F3F#64 := by decide

/-- The first and the last offset of an RW register. -/
theorem witness_WrittenRegisterReadsBack : (ready []).status.busy = false ∧
    (regAt? 0x008 = some .kcnt ∧ isRW .kcnt = true) ∧ (regAt? 0x03C = some (.blk .lo) ∧ isRW (.blk .lo) = true) := by decide

/-- The first and the last offset of each clause. -/
theorem witness_ReadOnlyWritesAreIgnored : ∀ off ∈ [0x040, 0x044, 0x048, 0x400, 0x57C],
    off = 0x040 ∨ off = 0x044 ∨ off = 0x048 ∨ (0x400 ≤ off ∧ off < 0x580 ∧ off % 4 = 0) := by decide

/-- The addresses next to the window, and the offsets where the access rules change. -/
theorem witness_BusAccessRules :
    (0x2FFFF < elsewhere.base ∧ elsewhere.base + 0x10000 ≤ 0x40000) ∧
    (target? elsewhere 0x048 .word = some (.reg .rksDir) ∧ target? elsewhere 0x04C .word = none ∧
      target? elsewhere 0x3FC .word = none ∧ target? elsewhere 0x400 .word = some (.reg (.rks 0 0 .hi)) ∧
      target? elsewhere 0x57C .word = some (.reg (.rks 2 15 .lo)) ∧ target? elsewhere 0x580 .word = none) ∧
    (target? elsewhere 0xFFC .word = none ∧ target? elsewhere 0x1000 .word = some (.dmemWord 0) ∧
      target? elsewhere 0x1FFC .word = some (.dmemWord 4092) ∧ target? elsewhere 0x2000 .word = none) ∧
    (target? elsewhere 0xFFF .byte = none ∧ target? elsewhere 0x1FFF .byte = some (.dmemByte 4095) ∧
      target? elsewhere 0x2000 .byte = none ∧ target? elsewhere 0x1000 .half = none) := by decide

/-- The last word and the last byte. -/
theorem witness_DmemLanesOfR54 : (ready []).status.busy = false ∧ (ready []).params.Legal ∧
    (4092 % 4 = 0 ∧ 4092 + 4 ≤ (ready []).params.dmemBytes) ∧ 4095 < (ready []).params.dmemBytes := by decide

/-- The last block. -/
theorem witness_MixedWidthViewOfR55 : (ready []).status.busy = false ∧ (ready []).params.Legal ∧
    4088 % 4 = 0 ∧ 4088 + 8 ≤ (ready []).params.dmemBytes := by decide

/-- CMD, a register, and the last byte of DMEM. -/
theorem witness_WritesWhileBusyAreDropped : running.status.busy = true ∧
    (target? running.params 0x000 .word = some (.reg .cmd) ∧ Target.reg .cmd ≠ .reg .status) ∧
    (target? running.params 0x008 .word = some (.reg .kcnt) ∧ Target.reg .kcnt ≠ .reg .status) ∧
    (target? running.params 0x1FFF .byte = some (.dmemByte 4095) ∧ Target.dmemByte 4095 ≠ .reg .status) := by decide

/-- The offsets where the clauses meet, and both ends of DMEM. -/
theorem witness_ReadsWhileBusy : running.status.busy = true ∧
    target? running.params 0x034 .word = some (.reg (.key 2 .lo)) ∧
    target? running.params 0x038 .word = some (.reg (.blk .hi)) ∧
    target? running.params 0x57C .word = some (.reg (.rks 2 15 .lo)) ∧
    target? running.params 0x1FFC .word = some (.dmemWord 4092) ∧
    target? running.params 0x1000 .byte = some (.dmemByte 0) := by decide

theorem witness_HostCannotDisturbTheRunningCommand :
    running.status.busy = true ∧ ∀ rest, running.host ≠ .reset :: rest := ⟨by decide, fun _ h => by cases h⟩

/-- All parity bits flipped. -/
theorem witness_ParityBitsHaveNoEffect : 0x0101010101010101#64 &&& ~~~0x0101010101010101#64 = 0#64 ∧
    ∀ k : Fin 3, ((ready []).keys[k] ^^^ (#v[0x0022446688AACCEE#64, 0x22446688AACCEE00#64, 0x446688AACCEE0022#64])[k]) &&&
      ~~~0x0101010101010101#64 = 0#64 := by decide

theorem witness_DegenerateKeysOfR123 :
    (0x0000000000000000#64 &&& ~~~0x0101010101010101#64 = 0#64 ∧
      0x0101010101010101#64 &&& ~~~0x0101010101010101#64 = 0#64) ∧
    (0xFEFEFEFEFEFEFEFE#64 ||| 0x0101010101010101#64 = 0xFFFFFFFFFFFFFFFF#64 ∧
      0xFFFFFFFFFFFFFFFF#64 ||| 0x0101010101010101#64 = 0xFFFFFFFFFFFFFFFF#64) ∧
    0xE0E0E0E0F1F1F1F1#64 ∈ [0x0101010101010101#64, 0xFEFEFEFEFEFEFEFE#64, 0xE0E0E0E0F1F1F1F1#64, 0x1F1F1F1F0E0E0E0E#64] := by
  refine ⟨by decide, by decide, ?_⟩
  simp

theorem witness_KschedFResult : (0#2).toNat < 3 ∧ (2#2).toNat < 3 := by decide

theorem witness_KschedRResult : (2#2).toNat < 3 ∧ (1#2).toNat < 3 := by decide

theorem witness_IndexThreeIsIllegal : (3#2 = 3#2 ∨ 0#2 = 3#2) ∧ (0#2 = 3#2 ∨ 3#2 = 3#2) := by decide

/-- Each legal key count, and the values next to them. -/
theorem witness_legalCount : (∀ n ∈ [1#32, 2#32, 3#32], legalCount n) ∧
    ∀ n ∈ [0#32, 4#32, 0x80000001#32, 0xFFFFFFFF#32], ¬ legalCount n := by simp [legalCount]

theorem witness_KcombFResult : legalCount (ready []).kcnt ∧ ¬ legalCount State.reset.kcnt := by unfold legalCount; decide

theorem witness_KcombRResult : legalCount { ready [] with kcnt := 1#32 }.kcnt ∧
    ¬ legalCount { ready [] with kcnt := 4#32 }.kcnt := by unfold legalCount; decide

theorem witness_InvokeResult : { ready [] with kcnt := 1#32 }.kcnt = 1#32 ∧ { ready [] with kcnt := 2#32 }.kcnt = 2#32 ∧
    (ready []).kcnt = 3#32 ∧ ¬ legalCount State.reset.kcnt := by unfold legalCount; decide

theorem witness_PaddingBitsHaveNoEffect :
    (0x060B3F01302F0732#64 ^^^ 0xC6CBFFC1F0EFC7F2#64) &&& 0x3F3F3F3F3F3F3F3F#64 = 0#64 := by decide

/-- The last set, with the forward schedule of a key in it. -/
theorem witness_XformResult : (2#2).toNat < 3 ∧
    { ready [] with rks := Vector.replicate 3 (scheduleF 0x133457799BBCDFF1#64) }.rks[2] = scheduleF 0x133457799BBCDFF1#64 :=
  ⟨by decide, by simp⟩

/-- One full block and a tail: in place, and in buffers that touch without overlapping. -/
theorem witness_CbcEncResult : CbcLegal (ready sampleText) ∧ CbcLegal { ready sampleText with dst := 0x2D#32 } := by
  refine ⟨⟨by decide, by decide, .inr (.inr rfl), ?_, ?_⟩, ⟨by decide, by decide, .inr (.inr rfl), ?_, ?_⟩⟩
  all_goals first | unfold outOfRange; decide | unfold buffersOverlap; decide

/-- Disjoint buffers, and an in-place one that ends with DMEM. -/
theorem witness_CbcDecResult : CbcLegal (apart sampleCipher) ∧
    CbcLegal { ready sampleCipher with src := 0xFF3#32, dst := 0xFF3#32 } := by
  refine ⟨⟨by decide, by decide, .inr (.inr rfl), ?_, ?_⟩, ⟨by decide, by decide, .inr (.inr rfl), ?_, ?_⟩⟩
  all_goals first | unfold outOfRange; decide | unfold buffersOverlap; decide

theorem witness_EncryptThenDecryptRestoresDmem :
    after (fun t => t.status.err) (exec .cbcEnc (ready sampleText)) = some .none ∧
    after (fun t => t.status.err) (exec .cbcEnc (apart sampleText)) = some .none := by decide +kernel

theorem witness_InPlaceEqualsDisjoint : CbcLegal (ready sampleText) ∧ CbcLegal (apart sampleText) ∧
    (ready sampleText).src = (ready sampleText).dst ∧ (apart sampleText).src ≠ (apart sampleText).dst ∧
    (apart sampleText).keys = (ready sampleText).keys ∧ (apart sampleText).iv = (ready sampleText).iv ∧
    (apart sampleText).kcnt = (ready sampleText).kcnt ∧ (apart sampleText).len = (ready sampleText).len ∧
    ∀ k, k < (ready sampleText).len.toNat → (apart sampleText).dmemByte ((apart sampleText).src.toNat + k) =
      (ready sampleText).dmemByte ((ready sampleText).src.toNat + k) := by
  refine ⟨witness_CbcEncResult.1, ⟨by decide, by decide, .inr (.inr rfl), ?_, ?_⟩, rfl, by decide, rfl, rfl, rfl, rfl,
    fun _ _ => rfl⟩
  · unfold outOfRange; decide
  · unfold buffersOverlap; decide

/-- Plaintexts of two lengths that agree on block 0 and differ from byte 8 on. -/
theorem witness_ChainingDivergence_prefix :
    (∀ k, k < 8 * 1 → (sampleText.take 8 ++ sampleCipher.take 8)[k]? = (sampleText ++ sampleCipher)[k]?) ∧
    1 < (sampleText ++ sampleCipher).length / 8 ∧ 1 < (sampleText.take 8 ++ sampleCipher.take 8).length / 8 ∧
    (8 / 8 = 1 ∧ (sampleText.take 8 ++ sampleCipher.take 8)[8]? ≠ (sampleText ++ sampleCipher)[8]?) := by decide

/-- Three full blocks and a tail, with a byte of block 1 changed. -/
theorem witness_ChainingDivergence :
    (∀ k, k < 8 * 1 → ((sampleText ++ sampleCipher).set 9 0#8)[k]? = (sampleText ++ sampleCipher)[k]?) ∧
    ((sampleText ++ sampleCipher).set 9 0#8).length = (sampleText ++ sampleCipher).length ∧
    1 < (sampleText ++ sampleCipher).length / 8 ∧
    (∀ k, k < (sampleText ++ sampleCipher).length → k / 8 ≠ 1 →
      ((sampleText ++ sampleCipher).set 9 0#8)[k]? = (sampleText ++ sampleCipher)[k]?) ∧
    (sampleText ++ sampleCipher).set 9 0#8 ≠ sampleText ++ sampleCipher := by decide

/-- No full block and one; the shortest and the longest tail. -/
theorem witness_FullBlocksDoNotDependOnTheTail : ([] : List Byte).length % 8 = 0 ∧ (sampleText.take 8).length % 8 = 0 ∧
    ([] : List Byte).length < 8 ∧ (sampleText.take 7).length < 8 := by decide

/-- The longest buffer with no full block. -/
theorem witness_ShortBuffersDecryptAsTheyEncrypt :
    CbcLegal (ready (sampleText.take 7)) ∧ (ready (sampleText.take 7)).len.toNat < 8 := by
  refine ⟨⟨by decide, by decide, .inr (.inr rfl), ?_, ?_⟩, by decide⟩
  · unfold outOfRange; decide
  · unfold buffersOverlap; decide

/-- With two keys, key 2 may differ. -/
theorem witness_KeysBeyondTheCountHaveNoEffect : ∀ k : Fin 3, k.val < { ready [] with kcnt := 2#32 }.kcnt.toNat →
    (sampleKeys.set 2 0xFF#64)[k] = { ready [] with kcnt := 2#32 }.keys[k] := by decide

theorem witness_TwoKeysAreThreeWithTheFirstReused : { ready sampleText with kcnt := 2#32 }.kcnt = 2#32 := by decide

/-- CBC_ENC about to complete, from the setup of 95_test_vectors.md section 8. -/
def completing (kcnt len src dst : U32) : State :=
  inFlight { State.reset with kcnt := kcnt, len := len, src := src, dst := dst } 0x8#32 0

theorem witness_ErrorPrecedence_illegal : (inFlight State.reset 0x18#32 0).status.busy = true ∧
    (inFlight State.reset 0x18#32 0).latencyLeft = 0 ∧ ∀ i, decode (inFlight State.reset 0x18#32 0).cmd ≠ .ok i := by
  have h : decode (inFlight State.reset 0x18#32 0).cmd = .error .unusedField := by decide
  exact ⟨by decide, by decide, fun i hi => by rw [h] at hi; cases hi⟩

/-- Each clause of a CBC command. -/
theorem witness_ErrorPrecedence_cbc :
    ((completing 0 0 0 8).status.busy = true ∧ (completing 0 0 0 8).latencyLeft = 0 ∧
      decode (completing 0 0 0 8).cmd = .ok .cbcEnc) ∧
    (completing 0 0 0 8).len = 0#32 ∧ (completing 0 0x80000000 0 8).len.msb = true ∧
    (¬ ((completing 0 8 0 8).len = 0#32 ∨ (completing 0 8 0 8).len.msb = true) ∧ ¬ legalCount (completing 0 8 0 8).kcnt) ∧
    (¬ ((completing 1 8 0xFFC 8).len = 0#32 ∨ (completing 1 8 0xFFC 8).len.msb = true) ∧
      legalCount (completing 1 8 0xFFC 8).kcnt ∧ outOfRange (completing 1 8 0xFFC 8)) ∧
    (¬ ((completing 1 8 0 4).len = 0#32 ∨ (completing 1 8 0 4).len.msb = true) ∧ legalCount (completing 1 8 0 4).kcnt ∧
      ¬ outOfRange (completing 1 8 0 4) ∧ buffersOverlap (completing 1 8 0 4)) := by
  unfold legalCount outOfRange buffersOverlap; decide

theorem witness_ErrorPrecedence_cbcLegal : CbcLegal (completing 1 8 0 8) := by
  refine ⟨by decide, by decide, .inl rfl, ?_, ?_⟩
  · unfold outOfRange; decide
  · unfold buffersOverlap; decide

/-- The commands with a key count, and the three without an error of their own. -/
theorem witness_ErrorPrecedence_others :
    (decode 0x3#32 = .ok .kcombF ∧ decode 0x4#32 = .ok .kcombR ∧ decode 0x6#32 = .ok .invoke) ∧
    (legalCount (inFlight (ready []) 0x6#32 0).kcnt ∧ ¬ legalCount (inFlight State.reset 0x6#32 0).kcnt) ∧
    (decode 0xA1#32 = .ok (.kschedF 2 2) ∧ decode 0x2#32 = .ok (.kschedR 0 0) ∧ decode 0x25#32 = .ok (.xform 2)) := by
  unfold legalCount; decide

theorem witness_ErrorsHaveNoOtherEffect : (completing 1 8 0 4).status.busy = true ∧ (completing 1 8 0 4).latencyLeft = 0 ∧
    after (fun t => t.status.err) (step (completing 1 8 0 4)) = some .overlap := by decide

theorem witness_EachRegisterHasItsWriters :
    after (fun t => t.status.busy) (exec .invoke (ready [])) = some false ∧
    ((∀ set ksel, Instr.invoke ≠ .kschedF set ksel ∧ Instr.invoke ≠ .kschedR set ksel) ∧ Instr.invoke ≠ .kcombF ∧
      Instr.invoke ≠ .kcombR) ∧
    after (fun t => t.status.busy) (exec .cbcEnc (ready sampleText)) = some false ∧
    ((∀ set, Instr.cbcEnc ≠ .xform set) ∧ Instr.cbcEnc ≠ .invoke) := by decide +kernel

/-- Two instances, the first of which steps; and the last of two right after reset. -/
theorem witness_InstancesAreIndependent : (1 : Nat) ≠ 0 ∧ ([full, ready []] : System)[1]? = some (ready []) ∧
    ([full, ready []] : System)[0]? = some full ∧
    (System.reset [Params.standard, elsewhere])[1]? = some (State.afterReset elsewhere 1 0 [] []) := by decide

theorem witness_DoCommandRunsTheCommand :
    (hosted (ready []) (doCommand Params.standard (.kschedR 2 1) ++ [.wait])).status.busy = false ∧
    (Instr.kschedR 2 1).wellFormed = true ∧
    (hosted (ready []) (doCommand Params.standard (.kschedR 2 1) ++ [.wait])).host =
      doCommand (ready []).params (.kschedR 2 1) ++ [.wait] := by decide

/-- A buffer that ends with DMEM. -/
theorem witness_WrbufFillsDmem :
    (hosted (ready []) (wrbuf Params.standard 4083 sampleText ++ [.wait])).status.busy = false ∧
    (ready []).params.Legal ∧ 4083 + sampleText.length ≤ (ready []).params.dmemBytes ∧
    (hosted (ready []) (wrbuf Params.standard 4083 sampleText ++ [.wait])).host =
      wrbuf (ready []).params 4083 sampleText ++ [.wait] := by decide

end Sys2Proof.Tests
end

section
/-! Proofs of the statements of 10_state.md. -/

namespace Sys2Proof.Machine

/-- R32, R241. -/
theorem State.hostWriteTarget_cmd_busy (s : State) (d : WriteData) (h : s.status.busy = true) :
    s.hostWriteTarget (.reg .cmd) d = s.loseCommand :=
  if_pos h

/-- R39, R243. CMD and STATUS are the only targets that a write under a running command treats otherwise. -/
theorem State.hostWriteTarget_busy_dropped (s : State) (t : Target) (d : WriteData) (h : s.status.busy = true)
    (hcmd : t ≠ .reg .cmd) (hstatus : t ≠ .reg .status) : s.hostWriteTarget t d = s.loseWrite := by
  cases t with
  | dmemByte a => exact if_pos h
  | dmemWord a => exact if_pos h
  | reg r =>
    cases r with
    | cmd => exact absurd rfl hcmd
    | status => exact absurd rfl hstatus
    | _ => exact if_pos h

/-- Settles O24: the access reaches its target, which loses the command when it is CMD and loses the write otherwise. -/
theorem writesWhileBusyAreDropped : Obligations.WritesWhileBusyAreDropped := by
  unfold Obligations.WritesWhileBusyAreDropped
  intro s off d tgt hbusy hoff htgt hstatus
  rw [s.hostWrite_add off d hoff, s.hostWriteAt_some off d tgt htgt]
  by_cases hcmd : tgt = .reg .cmd
  · rw [if_pos hcmd, hcmd, s.hostWriteTarget_cmd_busy d hbusy, State.loseCommand]
  · rw [if_neg hcmd, s.hostWriteTarget_busy_dropped tgt d hbusy hcmd hstatus, State.loseWrite]

end Sys2Proof.Machine
end

section
/-! Proofs of the statements of 20_memory.md. -/

namespace Sys2Proof.Machine

open Sys2Proof.Statements

/-- Storing a sequence right behind another one stores the two as one. -/
theorem Memory.setBytes_append (m : Memory) (a : Nat) (bs cs : List Byte) :
    Memory.setBytes (Memory.setBytes m a bs) (a + bs.length) cs = Memory.setBytes m a (bs ++ cs) := by
  induction bs generalizing m a with
  | nil => rfl
  | cons b bs ih =>
    rw [List.length_cons, Nat.add_comm bs.length 1, ← Nat.add_assoc]
    exact ih (Memory.set m a b) (a + 1)

/-- `Memory.setBytes_append`, for DMEM. -/
theorem State.storeBytes_append (s : State) (a : Nat) (bs cs : List Byte) :
    (s.storeBytes a bs).storeBytes (a + bs.length) cs = s.storeBytes a (bs ++ cs) := by
  simp only [State.storeBytes, Memory.setBytes_append]

/-- R13. The first four bytes of two words in a row are the first word's. -/
theorem byte64_append_hi (w0 w1 : U32) (i : Nat) (h : i < 4) :
    byte64 (w0 ++ w1) i = w0.extractLsb' (24 - 8 * i) 8 := by
  rw [byte64, BitVec.extractLsb'_append_eq_of_le (by omega), show 56 - 8 * i - 32 = 24 - 8 * i by omega]

/-- R13. The last four bytes of two words in a row are the second word's. -/
theorem byte64_append_lo (w0 w1 : U32) (i : Nat) (h : 4 ≤ i) :
    byte64 (w0 ++ w1) i = w1.extractLsb' (56 - 8 * i) 8 :=
  BitVec.extractLsb'_append_eq_of_add_le (by omega)

/-- R53, R54. The lanes of two bus words in order are the bytes of the block that the words make. -/
theorem bytes32_append_bytes32 (w0 w1 : U32) : bytes32 w0 ++ bytes32 w1 = store64 (w0 ++ w1) := by
  simp [bytes32, store64, byte64_append_hi, byte64_append_lo]

/-- R53. The block stored at an offset is the one loaded there. -/
theorem blockAt_storeBytes_store64 (s : State) (a : Nat) (v : U64) : blockAt (s.storeBytes a (store64 v)) a = v := by
  rw [blockAt, ← length_store64 v, State.dmemSlice_storeBytes, load64_store64]

/-- R53. Byte `i` of the block at `a` is the byte DMEM holds at `a + i`. -/
theorem byte64_blockAt (s : State) (a i : Nat) (h : i < 8) : byte64 (blockAt s a) i = s.dmemByte (a + i) := by
  rw [blockAt, byte64_load64 _ (s.length_dmemSlice a 8) i h, State.getElem_dmemSlice]

/-- R53. A byte stored into the block at `a` is that byte of the block; the block's other bytes stay. -/
theorem byte64_blockAt_storeByte (s : State) (a i k : Nat) (b : Byte) (hk : k < 8) :
    byte64 (blockAt (s.storeBytes (a + i) [b]) a) k = if k = i then b else byte64 (blockAt s a) k := by
  rw [byte64_blockAt _ _ _ hk, byte64_blockAt _ _ _ hk]
  split
  next h => exact h ▸ State.dmemByte_storeBytes_inside s (a + k) [b] 0 Nat.one_pos
  next h =>
    have hout : a + k < a + i ∨ a + i + [b].length ≤ a + k := by rw [List.length_singleton]; omega
    exact s.dmemByte_storeBytes_outside (a + i) [b] (a + k) hout

section
variable (s : State) (a : Nat) (hb : s.status.busy = false) (hl : s.params.Legal)
include hb hl

/-- R54. With no command in flight, a word write stores its four lanes. -/
theorem State.hostWrite_dmemWord_idle (v : U32) (h4 : a % 4 = 0) (h : a + 4 ≤ s.params.dmemBytes) :
    s.hostWrite (s.params.base + 0x1000 + a) (.word v) = (s.storeBytes a (bytes32 v), .written) := by
  obtain ⟨-, -, hmax⟩ := hl
  rw [s.hostWrite_dmemWord a v h4 h (by omega)]
  simp [State.hostWriteTarget, hb, WriteData.bytes]

/-- R54. With no command in flight, a byte write stores its byte. -/
theorem State.hostWrite_dmemByte_idle (v : Byte) (h : a < s.params.dmemBytes) :
    s.hostWrite (s.params.base + 0x1000 + a) (.byte v) = (s.storeBytes a [v], .written) := by
  obtain ⟨-, -, hmax⟩ := hl
  rw [s.hostWrite_dmemByte a v h (by omega)]
  simp [State.hostWriteTarget, hb, WriteData.bytes]

end

/-- Settles O23: the two words store the eight bytes of `w0 || w1` in order, and the byte write replaces one of them. -/
theorem mixedWidthViewOfR55 : Obligations.MixedWidthViewOfR55 := by
  unfold Obligations.MixedWidthViewOfR55
  intro s a w0 w1 hb hl h4 ha
  have hblock : (s.storeBytes a (bytes32 w0)).storeBytes (a + 4) (bytes32 w1) = s.storeBytes a (store64 (w0 ++ w1)) := by
    rw [← bytes32_append_bytes32, ← State.storeBytes_append, length_bytes32]
  refine ⟨_, _, s.hostWrite_dmemWord_idle a hb hl w0 h4 (by omega),
    (s.storeBytes a (bytes32 w0)).hostWrite_dmemWord_idle (a + 4) hb hl w1 (by omega) ha, ?_⟩
  rw [hblock]
  refine ⟨blockAt_storeBytes_store64 s a _, fun i b hi => ⟨_,
    (s.storeBytes a (store64 (w0 ++ w1))).hostWrite_dmemByte_idle (a + i) hb hl b (Nat.lt_of_lt_of_le (by omega) ha),
    ?_, fun k hk hne => ?_⟩⟩
  · exact (byte64_blockAt_storeByte _ a i i b hi).trans (if_pos rfl)
  · have hkept := (byte64_blockAt_storeByte (s.storeBytes a (store64 (w0 ++ w1))) a i k b hk).trans (if_neg hne)
    rwa [blockAt_storeBytes_store64] at hkept

end Sys2Proof.Machine
end

section
/-! Proofs of the statements of 30_encoding.md. -/

namespace Sys2Proof

/-! ## The fields of a word, as numbers -/

/-- R71. OP as a number. -/
theorem toNat_opField (w : U32) : (opField w).toNat = w.toNat % 16 := by
  simp [opField]

/-- R71, R72. SET as a number. -/
theorem toNat_setField (w : U32) : (setField w).toNat = w.toNat / 16 % 4 := by
  simp [setField, Nat.shiftRight_eq_div_pow]

/-- R71, R72. KSEL as a number. -/
theorem toNat_kselField (w : U32) : (kselField w).toNat = w.toNat / 64 % 4 := by
  simp [kselField, Nat.shiftRight_eq_div_pow]

/-- R71. RSVD as a number. -/
theorem toNat_rsvdField (w : U32) : (rsvdField w).toNat = w.toNat / 256 := by
  have h := w.isLt
  simp only [rsvdField, BitVec.extractLsb'_toNat, Nat.shiftRight_eq_div_pow]
  omega

/-- R71. OP is a value exactly when its number is. -/
theorem opField_eq_iff (w : U32) (c : BitVec 4) : opField w = c ↔ w.toNat % 16 = c.toNat := by
  rw [← BitVec.toNat_inj, toNat_opField]

/-- R71. SET is a value exactly when its number is. -/
theorem setField_eq_iff (w : U32) (c : BitVec 2) : setField w = c ↔ w.toNat / 16 % 4 = c.toNat := by
  rw [← BitVec.toNat_inj, toNat_setField]

/-- R71. KSEL is a value exactly when its number is. -/
theorem kselField_eq_iff (w : U32) (c : BitVec 2) : kselField w = c ↔ w.toNat / 64 % 4 = c.toNat := by
  rw [← BitVec.toNat_inj, toNat_kselField]

/-- R71. RSVD is a value exactly when its number is. -/
theorem rsvdField_eq_iff (w : U32) (c : BitVec 24) : rsvdField w = c ↔ w.toNat / 256 = c.toNat := by
  rw [← BitVec.toNat_inj, toNat_rsvdField]

/-- R71. The four fields are the whole word. -/
theorem word_eq_iff_fields (v w : U32) :
    v = w ↔ rsvdField v = rsvdField w ∧ kselField v = kselField w ∧ setField v = setField w ∧ opField v = opField w := by
  rw [← BitVec.toNat_inj, rsvdField_eq_iff, kselField_eq_iff, setField_eq_iff, opField_eq_iff, toNat_rsvdField,
    toNat_kselField, toNat_setField, toNat_opField]
  omega

/-- R73. A match/mask test is one test per field. -/
theorem masked_eq_iff_fields (w mask m : U32) :
    w &&& mask = m ↔ rsvdField w &&& rsvdField mask = rsvdField m ∧ kselField w &&& kselField mask = kselField m ∧
      setField w &&& setField mask = setField m ∧ opField w &&& opField mask = opField m := by
  simp only [word_eq_iff_fields, rsvdField, kselField, setField, opField, BitVec.extractLsb'_and]

/-- R71. The RSVD field of a word put together from its fields. -/
theorem rsvdField_append (r : BitVec 24) (k t : BitVec 2) (op : BitVec 4) : rsvdField (r ++ k ++ t ++ op) = r := by
  rw [rsvdField, BitVec.extractLsb'_append_eq_of_le (by decide), BitVec.extractLsb'_append_eq_of_le (by decide)]
  exact BitVec.extractLsb'_append_eq_left

/-- R71. The KSEL field of a word put together from its fields. -/
theorem kselField_append (r : BitVec 24) (k t : BitVec 2) (op : BitVec 4) : kselField (r ++ k ++ t ++ op) = k := by
  rw [kselField, BitVec.extractLsb'_append_eq_of_le (by decide), BitVec.extractLsb'_append_eq_of_le (by decide)]
  exact BitVec.extractLsb'_append_eq_right

/-- R71. The SET field of a word put together from its fields. -/
theorem setField_append (r : BitVec 24) (k t : BitVec 2) (op : BitVec 4) : setField (r ++ k ++ t ++ op) = t := by
  rw [setField, BitVec.extractLsb'_append_eq_of_le (by decide)]
  exact BitVec.extractLsb'_append_eq_right

/-- R71. The OP field of a word put together from its fields. -/
theorem opField_append (r : BitVec 24) (k t : BitVec 2) (op : BitVec 4) : opField (r ++ k ++ t ++ op) = op :=
  BitVec.extractLsb'_append_eq_right

end Sys2Proof

namespace Sys2Proof.Machine

open Sys2Proof.Statements

/-! ## The legal words -/

/-- R73 by its SET and KSEL columns: KSCHED_F and KSCHED_R use both fields, XFORM uses SET, the other commands neither. -/
def legalByColumns (w : U32) : Prop :=
  w.toNat / 256 = 0 ∧
    ((w.toNat % 16 ∈ [0x1, 0x2] ∧ w.toNat / 16 % 4 ≠ 3 ∧ w.toNat / 64 % 4 ≠ 3) ∨
      (w.toNat % 16 = 0x5 ∧ w.toNat / 16 % 4 ≠ 3 ∧ w.toNat / 64 % 4 = 0) ∨
      (w.toNat % 16 ∈ [0x3, 0x4, 0x6, 0x8, 0x9] ∧ w.toNat / 16 % 4 = 0 ∧ w.toNat / 64 % 4 = 0))

/-- R74. Conditions (a) to (d) are what the columns of R73 leave out. -/
theorem illegalByRule_iff_not_legalByColumns (w : U32) : illegalByRule w ↔ ¬ legalByColumns w := by
  unfold illegalByRule legalByColumns
  -- One case per OP: each leaves one set of constraints on SET and KSEL.
  have hop : w.toNat % 16 < 16 := Nat.mod_lt _ (by decide)
  generalize w.toNat % 16 = op at *
  interval_cases op <;> simp <;> omega

/-- R71. The index check on SET. -/
theorem legalIndex_setField (w : U32) : legalIndex (setField w) = true ↔ w.toNat / 16 % 4 ≠ 3 := by
  simp [legalIndex, setField_eq_iff]

/-- R71. The index check on KSEL. -/
theorem legalIndex_kselField (w : U32) : legalIndex (kselField w) = true ↔ w.toNat / 64 % 4 ≠ 3 := by
  simp [legalIndex, kselField_eq_iff]

/-- R74 c. When a schedule command decodes. -/
theorem exists_decodeSchedule_iff (mk : BitVec 2 → BitVec 2 → Instr) (w : U32) :
    (∃ i, decodeSchedule mk w = .ok i) ↔ w.toNat / 16 % 4 ≠ 3 ∧ w.toNat / 64 % 4 ≠ 3 := by
  rw [← legalIndex_setField, ← legalIndex_kselField, decodeSchedule]
  by_cases hset : legalIndex (setField w) = true <;> by_cases hksel : legalIndex (kselField w) = true <;> simp [hset, hksel]

/-- R74 c, d. When XFORM decodes. -/
theorem exists_decodeXform_iff (w : U32) :
    (∃ i, decodeXform w = .ok i) ↔ w.toNat / 16 % 4 ≠ 3 ∧ w.toNat / 64 % 4 = 0 := by
  rw [← legalIndex_setField, ← BitVec.toNat_zero (w := 2), ← kselField_eq_iff, decodeXform]
  by_cases hset : legalIndex (setField w) = true <;> by_cases hksel : kselField w = 0#2 <;> simp [hset, hksel]

/-- R74 d. When a command without fields decodes. -/
theorem exists_decodePlain_iff (i : Instr) (w : U32) :
    (∃ j, decodePlain i w = .ok j) ↔ w.toNat / 16 % 4 = 0 ∧ w.toNat / 64 % 4 = 0 := by
  rw [← BitVec.toNat_zero (w := 2), ← setField_eq_iff, ← kselField_eq_iff, decodePlain]
  split <;> simp [*]

/-- R73. The decoder accepts the legal words. -/
theorem exists_decode_iff (w : U32) : (∃ i, decode w = .ok i) ↔ legalByColumns w := by
  have hrsvd := rsvdField_eq_iff w 0#24
  unfold decode legalByColumns
  rw [toNat_opField]
  by_cases h : w.toNat / 256 = 0
  case neg => simp [hrsvd, h]
  case pos =>
    simp only [hrsvd.2 h, ne_eq, not_true_eq_false, if_false]
    split
    case h_9 => simp only [imp_false] at *; simp [*]
    all_goals simp [*, exists_decodeSchedule_iff, exists_decodePlain_iff, exists_decodeXform_iff]

/-- R73. What a column allows the field: an index below 3 when the command uses it, 0 otherwise. -/
def columnAllows (used : Bool) (field : Nat) : Prop :=
  if used then field ≠ 3 else field = 0

/-- R73. The mask bits of a field: none when the command uses it. -/
def columnMask (used : Bool) : BitVec 2 := if used then 0#2 else 3#2

/-- R73. The mask and the constraint on a field come to what its column allows. -/
theorem columnAllows_iff (used : Bool) (f : BitVec 2) :
    columnAllows used f.toNat ↔ f &&& columnMask used = 0#2 ∧ (used = true → f.toNat ≠ 3) := by
  revert f; cases used <;> unfold columnAllows <;> decide

/-- R73. The match/mask row of an opcode, from its columns. -/
def rowOf (op : BitVec 4) (usesSet usesKsel : Bool) : Row where
  word := 0#24 ++ 0#2 ++ 0#2 ++ op
  mask := 0xFFFFFF#24 ++ columnMask usesKsel ++ columnMask usesSet ++ 0xF#4
  setFree := usesSet
  kselFree := usesKsel

/-- R73. The match and mask columns follow from the opcode and the columns SET and KSEL. -/
theorem opcodeRows_eq : opcodeRows =
    [rowOf 0x1 true true, rowOf 0x2 true true, rowOf 0x3 false false, rowOf 0x4 false false, rowOf 0x5 true false,
      rowOf 0x6 false false, rowOf 0x8 false false, rowOf 0x9 false false] := rfl

/-- R73. What a row admits, by its columns. -/
theorem admits_rowOf_iff (op : BitVec 4) (usesSet usesKsel : Bool) (w : U32) :
    (rowOf op usesSet usesKsel).admits w ↔ w.toNat / 256 = 0 ∧ w.toNat % 16 = op.toNat ∧
      columnAllows usesSet (w.toNat / 16 % 4) ∧ columnAllows usesKsel (w.toNat / 64 % 4) := by
  have hrsvd : rsvdField w &&& 0xFFFFFF#24 = rsvdField w := BitVec.and_allOnes
  have hop : opField w &&& 0xF#4 = opField w := BitVec.and_allOnes
  rw [← toNat_setField, ← toNat_kselField, columnAllows_iff, columnAllows_iff]
  simp only [Row.admits, rowOf, masked_eq_iff_fields, rsvdField_append, kselField_append, setField_append, opField_append,
    hrsvd, hop, rsvdField_eq_iff, opField_eq_iff, toNat_setField, toNat_kselField, BitVec.toNat_zero]
  tauto

/-- R73. The match/mask rows admit the legal words. -/
theorem exists_row_admits_iff (w : U32) : (∃ r ∈ opcodeRows, r.admits w) ↔ legalByColumns w := by
  simp only [opcodeRows_eq, List.mem_cons, List.not_mem_nil, or_false, exists_eq_or_imp, exists_eq_left, admits_rowOf_iff,
    ← and_or_left, legalByColumns]
  refine and_congr_right fun _ => ?_
  grind [columnAllows]

/-! ## The completion of an illegal word -/

/-- R33. ERR is bits 7:4 of STATUS. -/
theorem statusWord_err (st : Status) : (statusWord st).extractLsb' 4 4 = errorNumber st.err := by
  rw [statusWord, BitVec.extractLsb'_append_eq_of_le (by decide), BitVec.extractLsb'_append_eq_of_le (by decide),
    BitVec.extractLsb'_append_eq_of_le (by decide)]
  exact BitVec.extractLsb'_append_eq_right

/-- R74. A word is illegal exactly when it decodes to no command. -/
theorem forall_decode_ne_iff (w : U32) : (∀ i, decode w ≠ .ok i) ↔ illegalByRule w := by
  rw [illegalByRule_iff_not_legalByColumns, ← exists_decode_iff, not_exists]

/-- R74. A word is illegal exactly when no match/mask row admits it. -/
theorem illegalByRule_iff_no_row (w : U32) : illegalByRule w ↔ ∀ r ∈ opcodeRows, ¬ r.admits w := by
  rw [illegalByRule_iff_not_legalByColumns, ← exists_row_admits_iff]
  simp

/-- R74. An accepted illegal word completes with IllegalCommand and has no other effect. -/
theorem step_illegalByRule (s : State) (hbusy : s.status.busy = true) (hlatency : s.latencyLeft = 0)
    (hillegal : illegalByRule s.cmd) : step s = .next (completed s .illegalCommand) := by
  rw [step_complete s hbusy hlatency]
  cases h : decode s.cmd with
  | ok i => exact absurd h ((forall_decode_ne_iff s.cmd).2 hillegal i)
  | error e => exact runCommand_error s e h

/-- Settles O3: the decoder and the match/mask rows accept the same words, those that (a) to (d) of R74 leave out. -/
theorem illegalWordsOfR74 : Obligations.IllegalWordsOfR74 :=
  ⟨fun w => ⟨forall_decode_ne_iff w, illegalByRule_iff_no_row w⟩, fun s hbusy hlatency hillegal =>
    ⟨step_illegalByRule s hbusy hlatency hillegal, statusWord_err _⟩⟩

/-! ## The RKS window -/

/-- R81. The word `b` bytes into round key `i` of set `j` is the key's upper half for `b = 0`, its lower half for `b = 4`. -/
theorem regAt?_rks (j : Fin 3) (i : Fin 16) {off b : Nat} (hoff : off = 0x400 + 0x80 * j.val + 8 * i.val + b)
    (hb : b = 0 ∨ b = 4) : regAt? off = some (.rks j i (if b = 0 then .hi else .lo)) := by
  have hset : (off - 0x400) / 0x80 = j.val := by omega
  have hkey : (off - 0x400) % 0x80 / 8 = i.val := by omega
  have hhalf : off % 8 = 0 ↔ b = 0 := by omega
  rw [regAt?_rksWindow off (by omega), rksWord, hset, hkey, Fin.ofNat_val_eq_self, Fin.ofNat_val_eq_self]
  simp only [hhalf]

/-- Settles O17: an idle read of a register word answers its value, and the window's words are the halves of the round keys. -/
theorem rksWindowOfR81 : Obligations.RksWindowOfR81 := by
  unfold Obligations.RksWindowOfR81
  refine ⟨fun s j i hidle => ⟨?_, ?_⟩, regAt?_rks 0 0 rfl (.inl rfl), regAt?_rks 1 0 rfl (.inl rfl),
    regAt?_rks 2 15 rfl (.inr rfl)⟩
  · exact s.hostRead_reg_idle _ (.rks j i .hi) hidle (regAt?_rks j i rfl (.inl rfl))
  · exact s.hostRead_reg_idle _ (.rks j i .lo) hidle (regAt?_rks j i (b := 4) (by omega) (.inr rfl))

/-! ## Writes to read-only words and to STATUS -/

/-- The RO register words of R80. -/
def isRO (r : Reg) : Prop := (∃ h, r = .chain h) ∨ r = .rksDir ∨ ∃ j i h, r = .rks j i h

/-- R80, R83. The offsets that R83 names hold RO register words. -/
theorem exists_isRO_regAt? (off : Nat)
    (hoff : off = 0x040 ∨ off = 0x044 ∨ off = 0x048 ∨ (0x400 ≤ off ∧ off < 0x580 ∧ off % 4 = 0)) :
    ∃ r, regAt? off = some r ∧ isRO r := by
  obtain rfl | rfl | rfl | hwindow := hoff
  · exact ⟨.chain .hi, rfl, .inl ⟨_, rfl⟩⟩
  · exact ⟨.chain .lo, rfl, .inl ⟨_, rfl⟩⟩
  · exact ⟨.rksDir, rfl, .inr (.inl rfl)⟩
  · exact ⟨rksWord off, regAt?_rksWindow off hwindow, .inr (.inr ⟨_, _, _, rfl⟩)⟩

/-- R83. A write to an RO register word is lost while a command is in flight, and ignored otherwise. -/
theorem State.hostWriteTarget_isRO (s : State) (r : Reg) (d : WriteData) (hr : isRO r) :
    s.hostWriteTarget (.reg r) d = if s.status.busy then s.loseWrite else s := by
  obtain ⟨h, rfl⟩ | rfl | ⟨j, i, h, rfl⟩ := hr <;> rfl

/-- Settles O19: the offsets are those of the RO words, and a write to STATUS reaches STATUS at any time. -/
theorem readOnlyWritesAreIgnored : Obligations.ReadOnlyWritesAreIgnored := by
  unfold Obligations.ReadOnlyWritesAreIgnored
  refine ⟨fun s off v hoff => ?_, fun s v => s.hostWrite_reg 0x004 v .status rfl⟩
  obtain ⟨r, hreg, hro⟩ := exists_isRO_regAt? off hoff
  rw [s.hostWrite_reg off v r hreg, s.hostWriteTarget_isRO r _ hro, State.loseWrite]

end Sys2Proof.Machine
end

section
/-! Proofs of the statements of 40_tables.md. -/

namespace Sys2Proof.Machine

open Sys2Proof.Statements

/-! ## The initial permutation and its inverse -/

/-- Settles O27: the two permutations undo each other, and each table lists every position once. -/
theorem initialPermutationInverse : Obligations.InitialPermutationInverse := by
  unfold Obligations.InitialPermutationInverse
  exact ⟨rfl, fun _ => rfl, inversePermutation_initial, initialPermutation_inverse, by decide, by decide⟩

/-! ## The output masks of the fused tables -/

/-- R110. A value that has no bit outside a mask. -/
def keepsTo (v m : U32) : Prop := v &&& ~~~m = 0#32

/-- Two values have no bit in common, bit by bit. -/
theorem and_eq_zero_iff_getLsbD (a b : U32) : a &&& b = 0#32 ↔ ∀ i < 32, a.getLsbD i = true → b.getLsbD i = false := by
  simp only [BitVec.eq_of_getLsbD_eq_iff, BitVec.getLsbD_and, BitVec.getLsbD_zero, Bool.and_eq_false_imp]

/-- `keepsTo`, bit by bit. -/
theorem keepsTo_iff (v m : U32) : keepsTo v m ↔ ∀ i < 32, v.getLsbD i = true → m.getLsbD i = true := by
  rw [keepsTo, and_eq_zero_iff_getLsbD]
  refine forall₂_congr fun i hi => ?_
  simp [hi]

/-- Values that keep to disjoint masks have no bit in common. -/
theorem and_eq_zero_of_keepsTo {v v' m m' : U32} (hv : keepsTo v m) (hv' : keepsTo v' m') (hm : m &&& m' = 0#32) :
    v &&& v' = 0#32 := by
  rw [keepsTo_iff] at hv hv'
  rw [and_eq_zero_iff_getLsbD] at hm ⊢
  intro i hi hvi
  exact Bool.eq_false_of_not_eq_true fun h => by simpa [hv' i hi h] using hm i hi (hv i hi hvi)

/-- The OR of two values keeps to the OR of their masks. -/
theorem keepsTo_or {v v' m m' : U32} (hv : keepsTo v m) (hv' : keepsTo v' m') : keepsTo (v ||| v') (m ||| m') := by
  rw [keepsTo_iff] at *
  intro i hi h
  rw [BitVec.getLsbD_or, Bool.or_eq_true] at h ⊢
  exact h.imp (hv i hi) (hv' i hi)

/-- The OR of values with no bit in common is their XOR. -/
theorem or_eq_xor_of_and_eq_zero {a b : U32} (h : a &&& b = 0#32) : a ||| b = a ^^^ b := by
  rw [and_eq_zero_iff_getLsbD] at h
  apply BitVec.eq_of_getLsbD_eq
  intro i hi
  rw [BitVec.getLsbD_or, BitVec.getLsbD_xor]
  cases ha : a.getLsbD i with
  | false => simp
  | true => simp [h i hi ha]

/-- R110. The OR of any number of values that keep to pairwise disjoint masks is their XOR. The values joined so far are
`acc`, and `m` is what they keep to. -/
theorem foldl_or_eq_foldl_xor {vs ms : List U32} (hkeeps : List.Forall₂ keepsTo vs ms) {acc m : U32}
    (hacc : keepsTo acc m) (hdisjoint : (m :: ms).Pairwise (fun m m' => m &&& m' = 0#32)) :
    vs.foldl (· ||| ·) acc = vs.foldl (· ^^^ ·) acc := by
  induction hkeeps generalizing acc m with
  | nil => rfl
  | @cons v mv vs ms hv _ ih =>
    obtain ⟨⟨hmv, hms⟩, hmvms, hrest⟩ := by simpa only [List.pairwise_cons, List.forall_mem_cons] using hdisjoint
    have hjoined : ∀ m' ∈ ms, (m ||| mv) &&& m' = 0#32 := fun m' hm' => by
      rw [BitVec.and_or_distrib_right, hms m' hm', hmvms m' hm', BitVec.or_zero]
    rw [List.foldl_cons, List.foldl_cons, ih (keepsTo_or hacc hv) (List.pairwise_cons.2 ⟨hjoined, hrest⟩),
      or_eq_xor_of_and_eq_zero (and_eq_zero_of_keepsTo hacc hv hmv)]

/-- R110. Every entry of a fused table keeps to the table's mask. -/
theorem keepsTo_mask : ∀ m ∈ maskedTables, ∀ x : BitVec 6, keepsTo (spLookup m.1 x) m.2 := by
  unfold keepsTo
  decide

/-- R110. The masks are pairwise disjoint. -/
theorem masks_pairwise_disjoint : (maskedTables.map (·.2)).Pairwise (fun m m' => m &&& m' = 0#32) := by decide

/-- R110. The OR of one entry from each fused table is their XOR. -/
theorem or_entries_eq_xor_entries (x1 x2 x3 x4 x5 x6 x7 x8 : BitVec 6) :
    spLookup sp1 x1 ||| spLookup sp2 x2 ||| spLookup sp3 x3 ||| spLookup sp4 x4 ||| spLookup sp5 x5 ||| spLookup sp6 x6
        ||| spLookup sp7 x7 ||| spLookup sp8 x8 =
      spLookup sp1 x1 ^^^ spLookup sp2 x2 ^^^ spLookup sp3 x3 ^^^ spLookup sp4 x4 ^^^ spLookup sp5 x5 ^^^ spLookup sp6 x6
        ^^^ spLookup sp7 x7 ^^^ spLookup sp8 x8 := by
  have hmask := keepsTo_mask
  simp only [maskedTables, List.forall_mem_cons] at hmask
  obtain ⟨h1, h2, h3, h4, h5, h6, h7, h8, -⟩ := hmask
  exact foldl_or_eq_foldl_xor
    (.cons (h2 x2) (.cons (h3 x3) (.cons (h4 x4) (.cons (h5 x5) (.cons (h6 x6) (.cons (h7 x7) (.cons (h8 x8) .nil)))))))
    (h1 x1) masks_pairwise_disjoint

/-- Settles O29: the entries keep to disjoint masks, and so their OR is their XOR. -/
theorem outputMasksOfR110 : Obligations.OutputMasksOfR110 := by
  unfold Obligations.OutputMasksOfR110
  exact ⟨keepsTo_mask, masks_pairwise_disjoint, by decide, or_entries_eq_xor_entries⟩

/-! ## The rotation table -/

/-- A half rotated by a whole number of its widths is itself. -/
theorem rotateLeft28_of_dvd (c : BitVec 28) {r : Nat} (h : 28 ∣ r) : c.rotateLeft r = c := by
  apply BitVec.eq_of_getLsbD_eq
  intro i hi
  rw [rotateLeft28_getLsbD c r i hi]
  congr 1
  omega

/-- R104. Rotations done one after another are one rotation by their sum. -/
theorem foldl_rotateLeft28 (rs : List Nat) (c : BitVec 28) :
    rs.foldl (fun c r => c.rotateLeft r) c = c.rotateLeft rs.sum := by
  induction rs generalizing c with
  | nil => exact (rotateLeft28_of_dvd c (dvd_zero 28)).symm
  | cons r rs ih => rw [List.foldl_cons, ih, rotateLeft28_add, List.sum_cons]

/-- R104. The amounts of the sixteen rounds sum to the width of a half. -/
theorem sum_rotTable : rotTable.sum = 28 := rfl

/-- Settles O30: each round key is the closed form, and the sixteen rotations of a half are one whole turn. -/
theorem rotationsAccumulate : Obligations.RotationsAccumulate := by
  unfold Obligations.RotationsAccumulate
  refine ⟨rfl, by decide, fun key i => scheduleF_getElem key i.val i.isLt, sum_rotTable, fun c => ?_⟩
  rw [foldl_rotateLeft28, sum_rotTable]
  exact rotateLeft28_of_dvd c (dvd_refl 28)

end Sys2Proof.Machine
end

section
/-! Proofs of the statements of 41_key_schedule.md. -/

namespace Sys2Proof.Machine

open Sys2Proof.Statements

/-! ## The reverse schedule -/

/-- Settles O31: the reverse set is the forward one reversed, and reversed round keys undo the transform. -/
theorem reverseScheduleUndoesForward : Obligations.ReverseScheduleUndoesForward := by
  unfold Obligations.ReverseScheduleUndoesForward
  exact ⟨fun key i => scheduleR_getElem key i.val i.isLt,
    fun x key => transform_reverse x (scheduleF key) (scheduleR key) (scheduleR_toList key)⟩

/-! ## The parity bits in a schedule -/

/-- R121. Two keys agree outside the parity bits. -/
def agreeOutsideParity (key key' : U64) : Prop := (key ^^^ key') &&& ~~~0x0101010101010101#64 = 0#64

/-- R103. PC1 selects no parity bit. -/
theorem pc1Table_selects_no_parity :
    ∀ p ∈ pc1Table, 64 - p < 64 ∧ (~~~0x0101010101010101#64).getLsbD (64 - p) = true := by decide

/-- R103, R121. Keys that agree outside the parity bits agree at every position PC1 selects. -/
theorem pos_congr_of_agreeOutsideParity {key key' : U64} (h : agreeOutsideParity key key') :
    ∀ p ∈ pc1Table, pos key p = pos key' p := by
  intro p hp
  obtain ⟨_, hmask⟩ := pc1Table_selects_no_parity p hp
  have hbit := congrArg (BitVec.getLsbD · (64 - p)) h
  rwa [BitVec.getLsbD_and, hmask, BitVec.getLsbD_xor, Bool.and_true, BitVec.getLsbD_zero, bne_eq_false_iff_eq] at hbit

/-- R12. A permutation depends only on the positions its table names. -/
theorem permute_congr {W : Nat} (M : Nat) {T : List Nat} {v v' : BitVec W} (h : ∀ p ∈ T, pos v p = pos v' p) :
    permute M T v = permute M T v' :=
  List.foldl_ext _ _ _ fun out p hp => by rw [permuteStep, permuteStep, h p hp]

/-- R103, R121. Keys that agree outside the parity bits enter the rounds with the same C. -/
theorem keyC_congr {key key' : U64} (h : agreeOutsideParity key key') : keyC key = keyC key' := by
  rw [keyC, keyC, permute_congr 56 (pos_congr_of_agreeOutsideParity h)]

/-- R103, R121. Keys that agree outside the parity bits enter the rounds with the same D. -/
theorem keyD_congr {key key' : U64} (h : agreeOutsideParity key key') : keyD key = keyD key' := by
  rw [keyD, keyD, permute_congr 56 (pos_congr_of_agreeOutsideParity h)]

/-- R121. Keys that agree outside the parity bits have one forward schedule. -/
theorem scheduleF_congr {key key' : U64} (h : agreeOutsideParity key key') : scheduleF key = scheduleF key' := by
  apply Vector.ext
  intro i hi
  rw [scheduleF_getElem key i hi, scheduleF_getElem key' i hi, keyC_congr h, keyD_congr h]

/-- A change of parity bits only. -/
theorem agreeOutsideParity_xor {key m : U64} (h : m &&& ~~~0x0101010101010101#64 = 0#64) :
    agreeOutsideParity key (key ^^^ m) := by
  rwa [agreeOutsideParity, ← BitVec.xor_assoc, BitVec.xor_self, BitVec.zero_xor]

/-! ## Commands that are given other keys

A command reads the key registers only through their schedules, so it ends alike under any keys that have the same ones. -/

/-- The state with the key registers `K`. -/
def State.withKeys (s : State) (K : Vector U64 3) : State := { s with keys := K }

@[simp] theorem State.withKeys_keys (s : State) (K : Vector U64 3) : (s.withKeys K).keys = K := rfl
@[simp] theorem State.withKeys_kcnt (s : State) (K : Vector U64 3) : (s.withKeys K).kcnt = s.kcnt := rfl

/-- R129, R130. Storing schedules does not depend on the key registers. -/
theorem State.storeSchedules_withKeys (s : State) (K : Vector U64 3) (even odd : Direction) (S : Schedules) :
    (s.withKeys K).storeSchedules even odd S = (s.storeSchedules even odd S).withKeys K := by
  cases S <;> rfl

/-- `f` answers a next state from `s`, and under the keys `K` the same one but for those keys. -/
def answersAlikeUnder (K : Vector U64 3) (f : State → Host.Outcome State Fault Refusal) (s : State) : Prop :=
  ∃ t, f s = .next t ∧ f (s.withKeys K) = .next (t.withKeys K)

section
variable {s : State} {K : Vector U64 3}

/-- R127. KSCHED_F depends on the selected key only through its schedule. -/
theorem execKschedF_withKeys (set ksel : BitVec 2) (h : ∀ k : Fin 3, scheduleF K[k] = scheduleF s.keys[k]) :
    answersAlikeUnder K (execKschedF set ksel) s := by
  unfold answersAlikeUnder execKschedF
  rcases index3? set with _ | j <;> rcases index3? ksel with _ | k
  case some.some =>
    simp only [State.withKeys_keys, h k]
    exact ⟨_, rfl, rfl⟩
  all_goals exact ⟨_, rfl, rfl⟩

/-- R128. KSCHED_R depends on the selected key only through its schedule. -/
theorem execKschedR_withKeys (set ksel : BitVec 2) (h : ∀ k : Fin 3, scheduleR K[k] = scheduleR s.keys[k]) :
    answersAlikeUnder K (execKschedR set ksel) s := by
  unfold answersAlikeUnder execKschedR
  rcases index3? set with _ | j <;> rcases index3? ksel with _ | k
  case some.some =>
    simp only [State.withKeys_keys, h k]
    exact ⟨_, rfl, rfl⟩
  all_goals exact ⟨_, rfl, rfl⟩

/-- R129. KCOMB_F depends on the keys only through their forward-biased combination. -/
theorem execKcombF_withKeys (h : ∀ n, keyCount? s.kcnt = some n → combineF K n = combineF s.keys n) :
    answersAlikeUnder K execKcombF s := by
  unfold answersAlikeUnder execKcombF
  rw [State.withKeys_kcnt]
  rcases hn : keyCount? s.kcnt with _ | n
  · exact ⟨_, rfl, rfl⟩
  · simp only [State.withKeys_keys, h n hn, State.storeSchedules_withKeys]
    exact ⟨_, rfl, rfl⟩

/-- R130. KCOMB_R depends on the keys only through their reverse-biased combination. -/
theorem execKcombR_withKeys (h : ∀ n, keyCount? s.kcnt = some n → combineR K n = combineR s.keys n) :
    answersAlikeUnder K execKcombR s := by
  unfold answersAlikeUnder execKcombR
  rw [State.withKeys_kcnt]
  rcases hn : keyCount? s.kcnt with _ | n
  · exact ⟨_, rfl, rfl⟩
  · simp only [State.withKeys_keys, h n hn, State.storeSchedules_withKeys]
    exact ⟨_, rfl, rfl⟩

/-- R144. XFORM reads no key. -/
theorem execXform_withKeys (set : BitVec 2) : answersAlikeUnder K (execXform set) s := by
  unfold answersAlikeUnder execXform
  rcases index3? set with _ | j
  · exact ⟨_, rfl, rfl⟩
  · exact ⟨_, rfl, rfl⟩

/-- R162. INVOKE reads no key. -/
theorem execInvoke_withKeys : answersAlikeUnder K execInvoke s := by
  unfold answersAlikeUnder execInvoke
  rw [State.withKeys_kcnt]
  rcases keyCount? s.kcnt with _ | n
  · exact ⟨_, rfl, rfl⟩
  · exact ⟨_, rfl, rfl⟩

section
variable {driver : Vector U64 3 → KeyCount → U64 → List Byte → CbcResult}
  (hlen : ∀ K n iv b, (driver K n iv b).bytes.length = b.length)
include hlen

/-- R171, R203. A CBC command whose checks fail answers the first error. -/
theorem State.runCbc_of_error {e : ErrorCode} (h : cbcOperands s = .error e) :
    s.runCbc driver = .next (s.complete e) := by
  rcases s.runCbc_cases driver hlen with ⟨e', he', hrun⟩ | ⟨o, ho, _⟩
  · cases h.symm.trans he'
    exact hrun
  · cases h.symm.trans ho

/-- R171, R178, R183. A CBC command whose checks pass stores the driver's bytes and its chaining value. -/
theorem State.runCbc_of_ok {o : CbcOperands} (h : cbcOperands s = .ok o) :
    s.runCbc driver = .next
      (((s.storeBytes o.dst (driver s.keys o.count s.iv (s.dmemSlice o.src o.length)).bytes).writeChain
        (driver s.keys o.count s.iv (s.dmemSlice o.src o.length)).chain).complete .none) := by
  rcases s.runCbc_cases driver hlen with ⟨e, he, _⟩ | ⟨o', ho', hrun⟩
  · cases h.symm.trans he
  · cases h.symm.trans ho'
    exact hrun

/-- R171. A CBC command depends on the keys only through what its driver makes of them. -/
theorem State.runCbc_withKeys (h : ∀ n, keyCount? s.kcnt = some n → driver K n = driver s.keys n) :
    answersAlikeUnder K (State.runCbc · driver) s := by
  rcases hchecks : cbcOperands s with e | o
  · exact ⟨_, State.runCbc_of_error hlen hchecks, State.runCbc_of_error (s := s.withKeys K) hlen hchecks⟩
  · obtain ⟨_, hcount, _⟩ := cbcOperands_ok s o hchecks
    refine ⟨_, State.runCbc_of_ok hlen hchecks, (State.runCbc_of_ok (s := s.withKeys K) hlen hchecks).trans ?_⟩
    rw [State.withKeys_keys, h o.count hcount]
    rfl

end

/-- R178. CBC_ENC depends on the keys only through their forward-biased combination. -/
theorem execCbcEnc_withKeys (h : ∀ n, keyCount? s.kcnt = some n → combineF K n = combineF s.keys n) :
    answersAlikeUnder K execCbcEnc s := by
  refine State.runCbc_withKeys length_cbcEncrypt fun n hn => ?_
  funext iv pt
  rw [cbcEncrypt, cbcEncrypt, h n hn]

/-- R183. CBC_DEC depends on the keys only through their two combinations. -/
theorem execCbcDec_withKeys (hF : ∀ n, keyCount? s.kcnt = some n → combineF K n = combineF s.keys n)
    (hR : ∀ n, keyCount? s.kcnt = some n → combineR K n = combineR s.keys n) : answersAlikeUnder K execCbcDec s := by
  refine State.runCbc_withKeys length_cbcDecrypt fun n hn => ?_
  funext iv ct
  rw [cbcDecrypt, cbcDecrypt, hF n hn, hR n hn]

end

/-- R124. Keys with the same schedules have the same forward-biased combination. -/
theorem combineF_congr {K K' : Vector U64 3} (h : ∀ k : Fin 3, scheduleF K[k] = scheduleF K'[k]) (n : KeyCount) :
    combineF K n = combineF K' n := by
  have h0 : scheduleF K[0] = scheduleF K'[0] := h 0
  have h1 : scheduleR K[1] = scheduleR K'[1] := scheduleR_congr _ _ (h 1)
  have h2 : scheduleF K[2] = scheduleF K'[2] := h 2
  cases n <;> simp only [combineF, h0, h1, h2]

/-- R126. Keys with the same schedules have the same reverse-biased combination. -/
theorem combineR_congr {K K' : Vector U64 3} (h : ∀ k : Fin 3, scheduleF K[k] = scheduleF K'[k]) (n : KeyCount) :
    combineR K n = combineR K' n := by
  have h0 : scheduleR K[0] = scheduleR K'[0] := scheduleR_congr _ _ (h 0)
  have h1 : scheduleF K[1] = scheduleF K'[1] := h 1
  have h2 : scheduleR K[2] = scheduleR K'[2] := scheduleR_congr _ _ (h 2)
  cases n <;> simp only [combineR, h0, h1, h2]

/-- R121. Keys with the same schedules make every command end alike. -/
theorem exec_withKeys (i : Instr) (s : State) {K : Vector U64 3}
    (h : ∀ k : Fin 3, scheduleF K[k] = scheduleF s.keys[k]) : answersAlikeUnder K (exec i) s := by
  cases i with
  | kschedF set ksel => exact execKschedF_withKeys set ksel h
  | kschedR set ksel => exact execKschedR_withKeys set ksel fun k => scheduleR_congr _ _ (h k)
  | kcombF => exact execKcombF_withKeys fun n _ => combineF_congr h n
  | kcombR => exact execKcombR_withKeys fun n _ => combineR_congr h n
  | xform set => exact execXform_withKeys set
  | invoke => exact execInvoke_withKeys
  | cbcEnc => exact execCbcEnc_withKeys fun n _ => combineF_congr h n
  | cbcDec => exact execCbcDec_withKeys (fun n _ => combineF_congr h n) fun n _ => combineR_congr h n

/-- Settles O32: PC1 selects no parity bit, so no schedule depends on one, and commands read keys only through schedules. -/
theorem parityBitsHaveNoEffect : Obligations.ParityBitsHaveNoEffect := by
  unfold Obligations.ParityBitsHaveNoEffect
  refine ⟨fun key m h => scheduleF_congr (agreeOutsideParity_xor h), fun i s K h => ?_, ?_⟩
  · exact exec_withKeys i s fun k => (scheduleF_congr (h k)).symm
  · exact scheduleF_congr (by unfold agreeOutsideParity; decide)

/-! ## The degenerate keys

What makes a key degenerate is that its halves are constant: rotating one changes nothing, so all rounds have one key. -/

/-- R123. A half whose bits are all equal. -/
def constantHalf (c : BitVec 28) : Prop := c = 0#28 ∨ c = 0xFFFFFFF#28

/-- R104, R123. A rotation leaves a constant half as it is. -/
theorem rotateLeft28_of_constantHalf {c : BitVec 28} (hc : constantHalf c) (r : Nat) : c.rotateLeft r = c := by
  apply BitVec.eq_of_getLsbD_eq
  intro i hi
  rw [rotateLeft28_getLsbD c r i hi]
  have hones : ∀ j < 28, (0xFFFFFFF#28).getLsbD j = true := by decide
  rcases hc with rfl | rfl
  · rw [BitVec.getLsbD_zero, BitVec.getLsbD_zero]
  · rw [hones i hi, hones _ (Nat.mod_lt _ (by decide))]

/-- R123. The keys with constant halves: all round keys are one, that of the unrotated halves. -/
theorem scheduleF_getElem_of_constantHalf {key : U64} (hc : constantHalf (keyC key)) (hd : constantHalf (keyD key))
    (i : Nat) (h : i < 16) : (scheduleF key)[i] = pack (keyC key ++ keyD key) := by
  rw [scheduleF_getElem key i h, rotateLeft28_of_constantHalf hc, rotateLeft28_of_constantHalf hd]

/-- R123 (c). The keys with constant halves have one schedule in both directions. -/
theorem scheduleF_eq_scheduleR_of_constantHalf {key : U64} (hc : constantHalf (keyC key)) (hd : constantHalf (keyD key)) :
    scheduleF key = scheduleR key := by
  apply Vector.ext
  intro i hi
  rw [scheduleR_getElem key i hi, scheduleF_getElem_of_constantHalf hc hd i hi,
    scheduleF_getElem_of_constantHalf hc hd (15 - i) (by omega)]

/-- R123 (a). A key that is 0 outside the parity bits has halves of zeros. -/
theorem halves_of_zero_outside_parity {key : U64} (h : key &&& ~~~0x0101010101010101#64 = 0#64) :
    keyC key = 0#28 ∧ keyD key = 0#28 := by
  have hagree : agreeOutsideParity key 0#64 := by rwa [agreeOutsideParity, BitVec.xor_zero]
  rw [keyC_congr hagree, keyD_congr hagree]
  decide +kernel

/-- R123 (b). A key that is all ones outside the parity bits has halves of ones. -/
theorem halves_of_ones_outside_parity {key : U64} (h : key ||| 0x0101010101010101#64 = 0xFFFFFFFFFFFFFFFF#64) :
    keyC key = 0xFFFFFFF#28 ∧ keyD key = 0xFFFFFFF#28 := by
  have hnot : key ^^^ 0xFFFFFFFFFFFFFFFF#64 = ~~~key := BitVec.xor_allOnes
  have hagree : agreeOutsideParity key 0xFFFFFFFFFFFFFFFF#64 := by
    rw [agreeOutsideParity, hnot, ← BitVec.not_or, h]
    rfl
  rw [keyC_congr hagree, keyD_congr hagree]
  decide +kernel

/-- R123 (c). The weak key with ones in C and zeros in D. -/
theorem halves_E0F1 : keyC 0xE0E0E0E0F1F1F1F1#64 = 0xFFFFFFF#28 ∧ keyD 0xE0E0E0E0F1F1F1F1#64 = 0#28 := by
  decide +kernel

/-- R123 (c). The weak key with zeros in C and ones in D. -/
theorem halves_1F0E : keyC 0x1F1F1F1F0E0E0E0E#64 = 0#28 ∧ keyD 0x1F1F1F1F0E0E0E0E#64 = 0xFFFFFFF#28 := by
  decide +kernel

/-- R123 (c). The halves of each of the four weak keys are constant. -/
theorem constantHalf_weakKeys :
    ∀ key ∈ [0x0101010101010101#64, 0xFEFEFEFEFEFEFEFE#64, 0xE0E0E0E0F1F1F1F1#64, 0x1F1F1F1F0E0E0E0E#64],
      constantHalf (keyC key) ∧ constantHalf (keyD key) := by
  simp only [List.forall_mem_cons, List.not_mem_nil, false_imp_iff, implies_true, and_true]
  exact ⟨(halves_of_zero_outside_parity rfl).imp .inl .inl, (halves_of_ones_outside_parity rfl).imp .inr .inr,
    halves_E0F1.imp .inr .inl, halves_1F0E.imp .inl .inr⟩

/-- R106, R123 (a). The round key of halves of zeros. -/
theorem pack_zeros : pack (0#28 ++ 0#28) = 0#64 := by decide +kernel

/-- R106, R123 (b). The round key of halves of ones. -/
theorem pack_ones : pack (0xFFFFFFF#28 ++ 0xFFFFFFF#28) = 0x3F3F3F3F3F3F3F3F#64 := by decide +kernel

/-- Settles O33: every degenerate key has constant halves, so one round key serves all rounds in either order. -/
theorem degenerateKeysOfR123 : Obligations.DegenerateKeysOfR123 := by
  unfold Obligations.DegenerateKeysOfR123
  refine ⟨fun key i h => ?_, fun key i h => ?_, fun key h => ?_⟩
  · obtain ⟨hc, hd⟩ := halves_of_zero_outside_parity h
    calc (scheduleF key)[i.val]
      _ = pack (keyC key ++ keyD key) := scheduleF_getElem_of_constantHalf (.inl hc) (.inl hd) i.val i.isLt
      _ = 0#64 := by rw [hc, hd, pack_zeros]
  · obtain ⟨hc, hd⟩ := halves_of_ones_outside_parity h
    calc (scheduleF key)[i.val]
      _ = pack (keyC key ++ keyD key) := scheduleF_getElem_of_constantHalf (.inr hc) (.inr hd) i.val i.isLt
      _ = 0x3F3F3F3F3F3F3F3F#64 := by rw [hc, hd, pack_ones]
  · obtain ⟨hc, hd⟩ := constantHalf_weakKeys key h
    exact scheduleF_eq_scheduleR_of_constantHalf hc hd

end Sys2Proof.Machine
end

section
/-! Proofs of the statements of 43_chained_invocation.md. -/

namespace Sys2Proof.Machine

open Sys2Proof.Statements

/-! ## The two schedules of a key undo each other -/

/-- R122. The forward sequence is the reverse one, index-reversed. -/
theorem scheduleF_toList_eq_reverse (key : U64) : (scheduleF key).toList = (scheduleR key).toList.reverse := by
  rw [scheduleR_toList, List.reverse_reverse]

/-- R143. `D_k(E_k(x)) = x`. -/
@[simp] theorem transform_scheduleR_transform_scheduleF (x key : U64) :
    transform (transform x (scheduleF key)) (scheduleR key) = x :=
  transform_reverse x (scheduleF key) (scheduleR key) (scheduleR_toList key)

/-- R143. `E_k(D_k(x)) = x`. -/
@[simp] theorem transform_scheduleF_transform_scheduleR (x key : U64) :
    transform (transform x (scheduleR key)) (scheduleF key) = x :=
  transform_reverse x (scheduleR key) (scheduleF key) (scheduleF_toList_eq_reverse key)

/-! ## The chains under the two combinations, in the transforms of each key -/

section
variable (x : U64) (K : Vector U64 3)

/-- R160, R124. `E_K0`. -/
theorem invoke_combineF_oneKey : invoke x (combineF K .oneKey) = transform x (scheduleF K[0]) := rfl

/-- R160, R126. `D_K0`. -/
theorem invoke_combineR_oneKey : invoke x (combineR K .oneKey) = transform x (scheduleR K[0]) := rfl

/-- R160, R124. `E_K0`, `D_K1`, `E_K0`. -/
theorem invoke_combineF_twoKey : invoke x (combineF K .twoKey) =
    transform (transform (transform x (scheduleF K[0])) (scheduleR K[1])) (scheduleF K[0]) := rfl

/-- R160, R126. `D_K0`, `E_K1`, `D_K0`. -/
theorem invoke_combineR_twoKey : invoke x (combineR K .twoKey) =
    transform (transform (transform x (scheduleR K[0])) (scheduleF K[1])) (scheduleR K[0]) := rfl

/-- R163 item 1. `E_K2(D_K1(E_K0(x)))`. -/
theorem invoke_combineF_threeKey : invoke x (combineF K .threeKey) =
    transform (transform (transform x (scheduleF K[0])) (scheduleR K[1])) (scheduleF K[2]) := rfl

/-- R163 item 1. `D_K0(E_K1(D_K2(x)))`. -/
theorem invoke_combineR_threeKey : invoke x (combineR K .threeKey) =
    transform (transform (transform x (scheduleR K[2])) (scheduleF K[1])) (scheduleR K[0]) := rfl

/-- R163 item 1. The stages of the reverse-biased chain undo those of the forward-biased one, the last one first. -/
theorem invoke_combineR_invoke_combineF (n : KeyCount) : invoke (invoke x (combineF K n)) (combineR K n) = x := by
  cases n with
  | oneKey =>
    rw [invoke_combineF_oneKey, invoke_combineR_oneKey, transform_scheduleR_transform_scheduleF]
  | twoKey =>
    rw [invoke_combineF_twoKey, invoke_combineR_twoKey, transform_scheduleR_transform_scheduleF,
      transform_scheduleF_transform_scheduleR, transform_scheduleR_transform_scheduleF]
  | threeKey =>
    rw [invoke_combineF_threeKey, invoke_combineR_threeKey, transform_scheduleR_transform_scheduleF,
      transform_scheduleF_transform_scheduleR, transform_scheduleR_transform_scheduleF]

/-- R163 item 3. With the first two keys equal, the second stage undoes the first, and two keys are one. -/
theorem invoke_combineF_twoKey_of_eq (h : K[1] = K[0]) :
    invoke x (combineF K .twoKey) = invoke x (combineF K .oneKey) := by
  rw [invoke_combineF_twoKey, h, transform_scheduleR_transform_scheduleF, invoke_combineF_oneKey]

/-- R163 item 2. A third key equal to the first adds nothing to two keys, whose third stage is the first again (R160). -/
theorem invoke_combineF_threeKey_of_eq (h : K[2] = K[0]) :
    invoke x (combineF K .threeKey) = invoke x (combineF K .twoKey) := by
  rw [invoke_combineF_threeKey, h, invoke_combineF_twoKey]

end

/-- Settles O44: a stage is undone by the stage under the same key and the other schedule that follows it, in the other chain
or, with equal keys, in its own. -/
theorem invocationLawsOfR163 : Obligations.InvocationLawsOfR163 := by
  unfold Obligations.InvocationLawsOfR163
  refine ⟨invoke_combineR_invoke_combineF, fun x K => ⟨invoke_combineF_threeKey x K, invoke_combineR_threeKey x K⟩,
    fun x k0 k1 k2 => ?_, fun x k0 k2 => ⟨invoke_combineF_twoKey_of_eq x _ rfl, ?_⟩⟩
  · exact (invoke_combineF_threeKey_of_eq x #v[k0, k1, k0] rfl).symm
  · calc invoke x (combineF #v[k0, k0, k0] .threeKey)
      _ = invoke x (combineF #v[k0, k0, k0] .twoKey) := invoke_combineF_threeKey_of_eq x _ rfl
      _ = invoke x (combineF #v[k0, k0, k0] .oneKey) := invoke_combineF_twoKey_of_eq x _ rfl

end Sys2Proof.Machine
end

section
/-! Proofs of the statements of 44_cbc.md. -/

namespace Sys2Proof.Machine

open Sys2Proof.Statements

/-! ## What a CBC command answers under the conditions of R172, R125 and R173 -/

/-- R25. A legal KCNT names a key count. -/
theorem exists_keyCount?_of_legalCount {kcnt : U32} (h : legalCount kcnt) : ∃ n, keyCount? kcnt = some n := by
  rcases h with rfl | rfl | rfl
  · exact ⟨_, keyCount?_one⟩
  · exact ⟨_, keyCount?_two⟩
  · exact ⟨_, keyCount?_three⟩

/-- R171. Under those conditions every check passes. -/
theorem cbcOperands_of_legal {s : State} (h : CbcLegal s) : ∃ n, keyCount? s.kcnt = some n ∧
    cbcOperands s = .ok { length := s.len.toNat, count := n, src := s.src.toNat, dst := s.dst.toNat } := by
  obtain ⟨hpositive, hsigned, hcount, hrange, hoverlap⟩ := h
  obtain ⟨n, hn⟩ := exists_keyCount?_of_legalCount hcount
  refine ⟨n, hn, cbcOperands_of_checks s n (by simp [hpositive, hsigned]) hn ?_ ?_⟩
  · rw [inRange_iff]
    unfold outOfRange at hrange
    omega
  · rwa [← Bool.not_eq_true, overlaps_iff, BitVec.toNat_ne_iff_ne]

/-- DMEM at two offsets holds the same bytes exactly when it does byte by byte. -/
theorem State.dmemSlice_eq_iff (s t : State) (a b n : Nat) :
    s.dmemSlice a n = t.dmemSlice b n ↔ ∀ k, k < n → s.dmemByte (a + k) = t.dmemByte (b + k) := by
  simp [State.dmemSlice]

section
variable {driver : Vector U64 3 → KeyCount → U64 → List Byte → CbcResult}
  (hlen : ∀ K n iv b, (driver K n iv b).bytes.length = b.length)
include hlen

/-- R171, R178, R183. A legal CBC command ends with the driver's result for the buffer at SRC: its bytes at DST, its
chaining value in CHAIN. -/
theorem State.runCbc_of_legal {s : State} (h : CbcLegal s) : ∃ n t, keyCount? s.kcnt = some n ∧
    s.runCbc driver = .next t ∧
    t.dmemSlice s.dst.toNat s.len.toNat = (driver s.keys n s.iv (s.dmemSlice s.src.toNat s.len.toNat)).bytes ∧
    t.chain = (driver s.keys n s.iv (s.dmemSlice s.src.toNat s.len.toNat)).chain := by
  obtain ⟨n, hn, hchecks⟩ := cbcOperands_of_legal h
  refine ⟨n, _, hn, State.runCbc_of_ok hlen hchecks, ?_, rfl⟩
  have hstored := s.dmemSlice_storeBytes s.dst.toNat (driver s.keys n s.iv (s.dmemSlice s.src.toNat s.len.toNat)).bytes
  rwa [hlen, State.length_dmemSlice] at hstored

/-- R184. Where the buffers lie plays no part: legal CBC commands over the same input, keys and IV make the same output and
the same CHAIN. -/
theorem State.runCbc_of_sameInput {s s' : State} (h : CbcLegal s) (h' : CbcLegal s') (hkeys : s'.keys = s.keys)
    (hiv : s'.iv = s.iv) (hkcnt : s'.kcnt = s.kcnt) (hlength : s'.len = s.len)
    (hinput : s'.dmemSlice s'.src.toNat s.len.toNat = s.dmemSlice s.src.toNat s.len.toNat) :
    ∃ t t', s.runCbc driver = .next t ∧ s'.runCbc driver = .next t' ∧ t'.chain = t.chain ∧
      t'.dmemSlice s'.dst.toNat s.len.toNat = t.dmemSlice s.dst.toNat s.len.toNat := by
  obtain ⟨n, t, hn, hrun, hbytes, hchain⟩ := State.runCbc_of_legal hlen h
  obtain ⟨n', t', hn', hrun', hbytes', hchain'⟩ := State.runCbc_of_legal hlen h'
  rw [hkcnt, hn, Option.some.injEq] at hn'
  rw [hkeys, hiv, hlength, hinput, ← hn'] at hbytes' hchain'
  exact ⟨t, t', hrun, hrun', hchain'.trans hchain.symm, hbytes'.trans hbytes.symm⟩

end

/-- Settles O49: both commands read the whole input before they write any output (R178, R183), so they make the output and
CHAIN from the same bytes, wherever the buffers lie. -/
theorem inPlaceEqualsDisjoint : Obligations.InPlaceEqualsDisjoint := by
  unfold Obligations.InPlaceEqualsDisjoint
  intro i s s' hi h h' _ _ hkeys hiv hkcnt hlength hinput
  simp only [← State.dmemSlice_eq_iff] at hinput ⊢
  rcases hi with rfl | rfl
  · exact State.runCbc_of_sameInput length_cbcEncrypt h h' hkeys hiv hkcnt hlength hinput
  · exact State.runCbc_of_sameInput length_cbcDecrypt h h' hkeys hiv hkcnt hlength hinput

end Sys2Proof.Machine
end

section
/-! Proofs of the statements of 60_exceptions.md. -/

namespace Sys2Proof.Machine

open Sys2Proof.Statements

/-! ## Decoded commands name legal sets and keys -/

/-- R74 c. A schedule command decodes with the indices its word holds, both legal. -/
theorem wellFormed_of_decodeSchedule {mk : BitVec 2 → BitVec 2 → Instr} {w : U32} {i : Instr}
    (hmk : ∀ set ksel, (mk set ksel).wellFormed = (legalIndex set && legalIndex ksel))
    (h : decodeSchedule mk w = .ok i) : i.wellFormed = true := by
  unfold decodeSchedule at h
  split at h
  case isTrue hset =>
    split at h
    case isTrue hksel =>
      cases h
      rw [hmk, hset, hksel, Bool.and_self]
    case isFalse => cases h
  case isFalse => cases h

/-- R74 c. XFORM decodes with the index its word holds, a legal one. -/
theorem wellFormed_of_decodeXform {w : U32} {i : Instr} (h : decodeXform w = .ok i) : i.wellFormed = true := by
  unfold decodeXform at h
  split at h
  case isTrue hset =>
    split at h
    · cases h
      exact hset
    · cases h
  case isFalse => cases h

/-- A command without fields decodes to itself. -/
theorem eq_of_decodePlain {i j : Instr} {w : U32} (h : decodePlain i w = .ok j) : i = j := by
  unfold decodePlain at h
  split at h
  · exact Except.ok.inj h
  · cases h

/-- R74 c. Every decoded command is well formed. -/
theorem wellFormed_of_decode {w : U32} {i : Instr} (h : decode w = .ok i) : i.wellFormed = true := by
  unfold decode at h
  split at h
  · cases h
  · split at h
    case h_1 | h_2 => exact wellFormed_of_decodeSchedule (fun _ _ => rfl) h
    case h_5 => exact wellFormed_of_decodeXform h
    case h_9 => cases h
    all_goals
      cases eq_of_decodePlain h
      rfl

/-! ## The checks of a CBC command -/

/-- R173. -/
theorem inRange_eq_false_iff (s : State) :
    inRange s.params.dmemBytes s.src.toNat s.dst.toNat s.len.toNat = false ↔ outOfRange s := by
  rw [← Bool.not_eq_true, inRange_iff, outOfRange]
  omega

/-- R173. -/
theorem overlaps_iff_buffersOverlap (s : State) :
    overlaps s.src.toNat s.dst.toNat s.len.toNat = true ↔ buffersOverlap s := by
  rw [overlaps_iff, BitVec.toNat_ne_iff_ne, buffersOverlap]

section
variable {s : State}

/-- R172, R203. -/
theorem cbcOperands_error_length (hlen : s.len = 0#32 ∨ s.len.msb = true) : cbcOperands s = .error .length := by
  simp only [cbcOperands, (bufferLength?_eq_none s.len).2 hlen]

/-- R125, R203. -/
theorem cbcOperands_error_keyCount (hlen : ¬ (s.len = 0#32 ∨ s.len.msb = true)) (hcount : ¬ legalCount s.kcnt) :
    cbcOperands s = .error .keyCount := by
  simp only [cbcOperands, bufferLength?_eq_some s.len hlen, (keyCount?_eq_none s.kcnt).2 hcount]

/-- R173, R203. -/
theorem cbcOperands_error_range (hlen : ¬ (s.len = 0#32 ∨ s.len.msb = true)) (hcount : legalCount s.kcnt)
    (hrange : outOfRange s) : cbcOperands s = .error .range := by
  obtain ⟨n, hn⟩ := exists_keyCount?_of_legalCount hcount
  simp [cbcOperands, bufferLength?_eq_some s.len hlen, hn, (inRange_eq_false_iff s).2 hrange]

/-- R173, R203. -/
theorem cbcOperands_error_overlap (hlen : ¬ (s.len = 0#32 ∨ s.len.msb = true)) (hcount : legalCount s.kcnt)
    (hrange : ¬ outOfRange s) (hoverlap : buffersOverlap s) : cbcOperands s = .error .overlap := by
  obtain ⟨n, hn⟩ := exists_keyCount?_of_legalCount hcount
  rw [← inRange_eq_false_iff, Bool.not_eq_false] at hrange
  simp [cbcOperands, bufferLength?_eq_some s.len hlen, hn, hrange, (overlaps_iff_buffersOverlap s).2 hoverlap]

end

/-! ## The error of each command -/

/-- R71. A legal index field is one that names a set or key. -/
theorem legalIndex_eq_isSome (f : BitVec 2) : legalIndex f = (index3? f).isSome := by
  revert f; decide

/-- R125. The error of a command whose only check is KCNT. -/
def countError (s : State) : ErrorCode :=
  match keyCount? s.kcnt with
  | none => .keyCount
  | some _ => .none

/-- R171, R203. The error of a CBC command: the first of its checks that fails. -/
def cbcError (s : State) : ErrorCode :=
  match cbcOperands s with
  | .error e => e
  | .ok _ => .none

/-- R201, R203. The error a command ends with (`exec_endsWith`), `none` for ERR = 0. -/
def commandError (s : State) : Instr → ErrorCode
  | .kcombF | .kcombR | .invoke => countError s
  | .cbcEnc | .cbcDec => cbcError s
  | i@(.kschedF _ _) | i@(.kschedR _ _) | i@(.xform _) => if i.wellFormed then .none else .illegalCommand

/-- R202, R204. The outcome `r` of a command in `s` is a completion step with the error `e`, and nothing but that step when
there is an error. -/
def endsWith (s : State) (e : ErrorCode) (r : Host.Outcome State Fault Refusal) : Prop :=
  ∃ u : State, r = .next (u.complete e) ∧ (e ≠ .none → u = s)

section
variable {s u : State} {e : ErrorCode} {r : Host.Outcome State Fault Refusal}

/-- R202. A completion with an error code is the completion step alone. -/
theorem endsWith_error (h : r = .next (s.complete e)) : endsWith s e r := ⟨s, h, fun _ => rfl⟩

/-- R204. A completion without an error may follow any effect. -/
theorem endsWith_none (h : r = .next (u.complete .none)) : endsWith s .none r := ⟨u, h, absurd rfl⟩

/-- A command that answers as KSCHED_F and KSCHED_R do. -/
theorem endsWith_of_indexCases {set ksel : BitVec 2} {result : Fin 3 → Fin 3 → State}
    (h : (∃ j k, index3? set = some j ∧ index3? ksel = some k ∧ r = .next ((result j k).complete .none)) ∨
      ((index3? set = none ∨ index3? ksel = none) ∧ r = .next (s.complete .illegalCommand))) :
    endsWith s (if legalIndex set && legalIndex ksel then .none else .illegalCommand) r := by
  rcases h with ⟨j, k, hset, hksel, h⟩ | ⟨hnone, h⟩
  · rw [if_pos (by simp [legalIndex_eq_isSome, hset, hksel])]
    exact endsWith_none h
  · rw [if_neg (by rcases hnone with hnone | hnone <;> simp [legalIndex_eq_isSome, hnone])]
    exact endsWith_error h

/-- A command that answers as KCOMB_F, KCOMB_R and INVOKE do. -/
theorem endsWith_of_countCases {result : KeyCount → State}
    (h : (∃ n, keyCount? s.kcnt = some n ∧ r = .next ((result n).complete .none)) ∨
      (keyCount? s.kcnt = none ∧ r = .next (s.complete .keyCount))) : endsWith s (countError s) r := by
  rcases h with ⟨n, hn, h⟩ | ⟨hn, h⟩ <;> rw [countError, hn]
  · exact endsWith_none h
  · exact endsWith_error h

/-- A command that answers as CBC_ENC and CBC_DEC do. -/
theorem endsWith_of_cbcCases {result : CbcOperands → State}
    (h : (∃ e, cbcOperands s = .error e ∧ r = .next (s.complete e)) ∨
      (∃ o, cbcOperands s = .ok o ∧ r = .next ((result o).complete .none))) : endsWith s (cbcError s) r := by
  rcases h with ⟨e, he, h⟩ | ⟨o, ho, h⟩
  · rw [cbcError, he]
    exact endsWith_error h
  · rw [cbcError, ho]
    exact endsWith_none h

end

/-- R202, R204. Every command ends with its error, and with an error has no effect. -/
theorem exec_endsWith (i : Instr) (s : State) : endsWith s (commandError s i) (exec i s) := by
  cases i with
  | kschedF set ksel => exact endsWith_of_indexCases (execKschedF_cases set ksel s)
  | kschedR set ksel => exact endsWith_of_indexCases (execKschedR_cases set ksel s)
  | kcombF => exact endsWith_of_countCases (execKcombF_cases s)
  | kcombR => exact endsWith_of_countCases (execKcombR_cases s)
  | invoke => exact endsWith_of_countCases (execInvoke_cases s)
  | cbcEnc => exact endsWith_of_cbcCases (execCbcEnc_cases s)
  | cbcDec => exact endsWith_of_cbcCases (execCbcDec_cases s)
  | xform set =>
    rw [commandError, Instr.wellFormed, legalIndex_eq_isSome]
    rcases execXform_cases set s with ⟨j, hj, h⟩ | ⟨hnone, h⟩
    · rw [hj]
      exact endsWith_none h
    · rw [hnone]
      exact endsWith_error h

/-! ## The error of the command in flight -/

/-- R74, R203. The error the command in flight completes with (`step_endsWith`). -/
def stepError (s : State) : ErrorCode :=
  match decode s.cmd with
  | .ok i => commandError s i
  | .error _ => .illegalCommand

/-- R70. -/
theorem stepError_of_decode {s : State} {i : Instr} (h : decode s.cmd = .ok i) : stepError s = commandError s i := by
  simp only [stepError, h]

/-- R74. -/
theorem stepError_of_not_decode {s : State} (h : ∀ i, decode s.cmd ≠ .ok i) : stepError s = .illegalCommand := by
  cases hcmd : decode s.cmd with
  | ok i => exact absurd hcmd (h i)
  | error e => simp only [stepError, hcmd]

/-- R202, R204. The completion step of the command in flight reports its error, and with an error has no effect. -/
theorem step_endsWith {s : State} (hbusy : s.status.busy = true) (hlatency : s.latencyLeft = 0) :
    endsWith s (stepError s) (step s) := by
  rw [step_complete s hbusy hlatency]
  cases hcmd : decode s.cmd with
  | ok i =>
    rw [runCommand_ok s i hcmd, stepError_of_decode hcmd]
    exact exec_endsWith i s
  | error e =>
    rw [stepError, hcmd]
    exact endsWith_error (runCommand_error s e hcmd)

/-- R203. The order of precedence among the errors of a CBC command. -/
theorem cbcError_precedence (s : State) :
    (s.len = 0#32 ∨ s.len.msb = true → cbcError s = .length) ∧
    (¬ (s.len = 0#32 ∨ s.len.msb = true) → ¬ legalCount s.kcnt → cbcError s = .keyCount) ∧
    (¬ (s.len = 0#32 ∨ s.len.msb = true) → legalCount s.kcnt → outOfRange s → cbcError s = .range) ∧
    (¬ (s.len = 0#32 ∨ s.len.msb = true) → legalCount s.kcnt → ¬ outOfRange s → buffersOverlap s →
      cbcError s = .overlap) ∧
    (CbcLegal s → cbcError s = .none) := by
  refine ⟨fun hlen => ?_, fun hlen hcount => ?_, fun hlen hcount hrange => ?_,
    fun hlen hcount hrange hoverlap => ?_, fun hlegal => ?_⟩
  · rw [cbcError, cbcOperands_error_length hlen]
  · rw [cbcError, cbcOperands_error_keyCount hlen hcount]
  · rw [cbcError, cbcOperands_error_range hlen hcount hrange]
  · rw [cbcError, cbcOperands_error_overlap hlen hcount hrange hoverlap]
  · obtain ⟨n, _, hchecks⟩ := cbcOperands_of_legal hlegal
    rw [cbcError, hchecks]

/-- R125, R203. -/
theorem countError_precedence (s : State) :
    (¬ legalCount s.kcnt → countError s = .keyCount) ∧ (legalCount s.kcnt → countError s = .none) := by
  refine ⟨fun hcount => ?_, fun hcount => ?_⟩
  · rw [countError, (keyCount?_eq_none s.kcnt).2 hcount]
  · obtain ⟨n, hn⟩ := exists_keyCount?_of_legalCount hcount
    rw [countError, hn]

/-- Settles O55: the completion step reports `stepError`, which for each kind of command is the first of its checks that
fails; a decoded command has no illegal index left to report. -/
theorem errorPrecedenceOfR203 : Obligations.ErrorPrecedenceOfR203 := by
  unfold Obligations.ErrorPrecedenceOfR203
  intro s hbusy hlatency
  obtain ⟨u, hstep, _⟩ := step_endsWith hbusy hlatency
  refine ⟨_, hstep, stepError_of_not_decode, fun i hi => ?_⟩
  rw [show (u.complete (stepError s)).status.err = commandError s i from stepError_of_decode hi]
  refine ⟨?_, ?_, ?_⟩
  · rintro (rfl | rfl) <;> exact cbcError_precedence s
  · rintro (rfl | rfl | rfl) <;> exact countError_precedence s
  · rintro set ksel (rfl | rfl | rfl) <;> exact if_pos (wellFormed_of_decode hi)

/-- Settles O56: a command that reports an error has the bare completion step as its outcome (`endsWith`). -/
theorem errorsHaveNoOtherEffect : Obligations.ErrorsHaveNoOtherEffect := by
  unfold Obligations.ErrorsHaveNoOtherEffect
  intro s t hbusy hlatency hstep herr
  obtain ⟨u, hu, hunchanged⟩ := step_endsWith hbusy hlatency
  cases hstep.symm.trans hu
  have hus : u = s := hunchanged herr
  rw [hus]
  rfl

end Sys2Proof.Machine
end

section
/-! Proofs of the statements on command words (30_encoding.md sections 1 to 3). -/

namespace Sys2Proof

/-! ## A command word by its fields -/

/-- R71. A word has the given fields, and RSVD = 0, exactly when it is the command word made of them. -/
theorem commandWord_eq_iff (op : BitVec 4) (set ksel : BitVec 2) (w : U32) :
    commandWord op set ksel = w ↔ rsvdField w = 0#24 ∧ kselField w = ksel ∧ setField w = set ∧ opField w = op := by
  simp only [word_eq_iff_fields, commandWord, rsvdField_append, kselField_append, setField_append, opField_append, eq_comm]

section
variable (op : BitVec 4) (set ksel : BitVec 2)

@[simp] theorem rsvdField_commandWord : rsvdField (commandWord op set ksel) = 0#24 := rsvdField_append _ _ _ _
@[simp] theorem kselField_commandWord : kselField (commandWord op set ksel) = ksel := kselField_append _ _ _ _
@[simp] theorem setField_commandWord : setField (commandWord op set ksel) = set := setField_append _ _ _ _
@[simp] theorem opField_commandWord : opField (commandWord op set ksel) = op := opField_append _ _ _ _

end

/-! ## Encoding and back -/

/-- R73. The word of a command decodes to it. -/
theorem decode_encode {i : Instr} (h : i.wellFormed = true) : decode (encode i) = .ok i := by
  cases i with
  | kschedF set ksel | kschedR set ksel =>
    obtain ⟨hset, hksel⟩ : legalIndex set = true ∧ legalIndex ksel = true := by simpa [Instr.wellFormed] using h
    simp [encode, decode, decodeSchedule, hset, hksel]
  | xform set =>
    have hset : legalIndex set = true := h
    simp [encode, decode, decodeXform, hset]
  | kcombF | kcombR | invoke | cbcEnc | cbcDec => simp [encode, decode, decodePlain]

/-! ## Decoding and back -/

/-- R72. A schedule command decodes with the indices its word holds. -/
theorem eq_of_decodeSchedule {mk : BitVec 2 → BitVec 2 → Instr} {w : U32} {i : Instr}
    (h : decodeSchedule mk w = .ok i) : i = mk (setField w) (kselField w) := by
  unfold decodeSchedule at h
  split at h
  · split at h
    · exact (Except.ok.inj h).symm
    · cases h
  · cases h

/-- R72, R74 d. XFORM decodes with the set its word holds, and KSEL = 0. -/
theorem eq_of_decodeXform {w : U32} {i : Instr} (h : decodeXform w = .ok i) :
    i = .xform (setField w) ∧ kselField w = 0#2 := by
  unfold decodeXform at h
  split at h
  · split at h
    next hksel => exact ⟨(Except.ok.inj h).symm, hksel⟩
    next => cases h
  · cases h

/-- R74 d. A command without fields decodes from a word with SET = 0 and KSEL = 0. -/
theorem fields_of_decodePlain {i j : Instr} {w : U32} (h : decodePlain i w = .ok j) :
    setField w = 0#2 ∧ kselField w = 0#2 := by
  unfold decodePlain at h
  split at h
  next hfields => exact hfields
  next => cases h

/-- R71, R73. The decoded command's word is the word it was decoded from. -/
theorem encode_of_decode {w : U32} {i : Instr} (h : decode w = .ok i) : encode i = w := by
  have hrsvd := rsvdField_of_decode w i h
  unfold decode at h
  rw [if_neg (by simp [hrsvd])] at h
  split at h
  case h_9 => cases h
  case h_1 hop | h_2 hop =>
    cases eq_of_decodeSchedule h
    exact (commandWord_eq_iff _ _ _ w).2 ⟨hrsvd, rfl, rfl, BitVec.eq_of_toNat_eq hop⟩
  case h_5 hop =>
    obtain ⟨rfl, hksel⟩ := eq_of_decodeXform h
    exact (commandWord_eq_iff _ _ _ w).2 ⟨hrsvd, hksel, rfl, BitVec.eq_of_toNat_eq hop⟩
  all_goals
    rename_i hop
    cases Machine.eq_of_decodePlain h
    obtain ⟨hset, hksel⟩ := fields_of_decodePlain h
    exact (commandWord_eq_iff _ _ _ w).2 ⟨hrsvd, hksel, hset, BitVec.eq_of_toNat_eq hop⟩

/-- Settles O1: the four fields are the whole word, and the decoder reads each of them. -/
theorem decodeEncodeAgree : Obligations.DecodeEncodeAgree := by
  unfold Obligations.DecodeEncodeAgree
  exact ⟨fun _ => decode_encode, fun _ _ h => ⟨Machine.wellFormed_of_decode h, encode_of_decode h⟩⟩

/-- Settles O2: each of the words, decoded. -/
theorem wordsOfTheOpcodeMap : Obligations.WordsOfTheOpcodeMap := by
  unfold Obligations.WordsOfTheOpcodeMap
  decide

end Sys2Proof
end

section
/-! Proofs of the statements on what a command can write, and of the machine's invariant (10_state.md sections 2 to 6,
60_exceptions.md section 3). -/

namespace Sys2Proof.Machine

open Sys2Proof.Statements

/-! ## What a command does before its completion step -/

/-- Everything a command can have done to the state `s` when its completion step is due: nothing, or the one effect of its
kind. The output of a CBC command lies inside DMEM. -/
inductive Effect (s : State) : Instr → State → Prop
  | nothing (i : Instr) : Effect s i s
  | kschedF (set ksel : BitVec 2) (j k : Fin 3) :
      Effect s (.kschedF set ksel) (s.writeRks j .forward (scheduleF s.keys[k]))
  | kschedR (set ksel : BitVec 2) (j k : Fin 3) :
      Effect s (.kschedR set ksel) (s.writeRks j .reverse (scheduleR s.keys[k]))
  | kcombF (n : KeyCount) : Effect s .kcombF (s.storeSchedules .forward .reverse (combineF s.keys n))
  | kcombR (n : KeyCount) : Effect s .kcombR (s.storeSchedules .reverse .forward (combineR s.keys n))
  | xform (set : BitVec 2) (v : U64) : Effect s (.xform set) (s.writeBlk v)
  | invoke (v : U64) : Effect s .invoke (s.writeBlk v)
  | cbc (i : Instr) (hi : i = .cbcEnc ∨ i = .cbcDec) (a : Nat) (bs : List Byte) (v : U64)
      (h : a + bs.length ≤ s.params.dmemBytes) : Effect s i ((s.storeBytes a bs).writeChain v)

/-- R70, R204. Every command answers: its effect, and then the completion step. -/
theorem exec_effect (i : Instr) (s : State) : ∃ u e, exec i s = .next (u.complete e) ∧ Effect s i u := by
  cases i with
  | kschedF set ksel =>
    rcases execKschedF_cases set ksel s with ⟨j, k, _, _, h⟩ | ⟨_, h⟩
    · exact ⟨_, _, h, .kschedF set ksel j k⟩
    · exact ⟨_, _, h, .nothing _⟩
  | kschedR set ksel =>
    rcases execKschedR_cases set ksel s with ⟨j, k, _, _, h⟩ | ⟨_, h⟩
    · exact ⟨_, _, h, .kschedR set ksel j k⟩
    · exact ⟨_, _, h, .nothing _⟩
  | kcombF =>
    rcases execKcombF_cases s with ⟨n, _, h⟩ | ⟨_, h⟩
    · exact ⟨_, _, h, .kcombF n⟩
    · exact ⟨_, _, h, .nothing _⟩
  | kcombR =>
    rcases execKcombR_cases s with ⟨n, _, h⟩ | ⟨_, h⟩
    · exact ⟨_, _, h, .kcombR n⟩
    · exact ⟨_, _, h, .nothing _⟩
  | xform set =>
    rcases execXform_cases set s with ⟨j, _, h⟩ | ⟨_, h⟩
    · exact ⟨_, _, h, .xform set _⟩
    · exact ⟨_, _, h, .nothing _⟩
  | invoke =>
    rcases execInvoke_cases s with ⟨n, _, h⟩ | ⟨_, h⟩
    · exact ⟨_, _, h, .invoke _⟩
    · exact ⟨_, _, h, .nothing _⟩
  | cbcEnc =>
    rcases execCbcEnc_cases s with ⟨e, _, h⟩ | ⟨o, ho, h⟩
    · exact ⟨_, _, h, .nothing _⟩
    · obtain ⟨-, -, -, -, -, -, hdst, -⟩ := cbcOperands_ok s o ho
      exact ⟨_, _, h, .cbc _ (.inl rfl) _ _ _ (by simpa [length_cbcEncrypt] using hdst)⟩
  | cbcDec =>
    rcases execCbcDec_cases s with ⟨e, _, h⟩ | ⟨o, ho, h⟩
    · exact ⟨_, _, h, .nothing _⟩
    · obtain ⟨-, -, -, -, -, -, hdst, -⟩ := cbcOperands_ok s o ho
      exact ⟨_, _, h, .cbc _ (.inr rfl) _ _ _ (by simpa [length_cbcDecrypt] using hdst)⟩

/-- R129, R130. Storing schedules writes RKS and RKS_DIR only. -/
theorem State.storeSchedules_eq (s : State) (even odd : Direction) (S : Schedules) :
    s.storeSchedules even odd S =
      { s with rks := (s.storeSchedules even odd S).rks, rksDir := (s.storeSchedules even odd S).rksDir } := by
  cases S <;> rfl

/-- R23 to R31. An effect reaches RKS, RKS_DIR, BLK, CHAIN and DMEM only. -/
theorem Effect.frame {s u : State} {i : Instr} (h : Effect s i u) :
    u = { s with rks := u.rks, rksDir := u.rksDir, blk := u.blk, chain := u.chain, dmem := u.dmem } := by
  cases h with
  | kcombF n | kcombR n => rw [State.storeSchedules_eq]
  | _ => rfl

/-- Settles O57: an effect keeps to the registers of its kind of command. -/
theorem eachRegisterHasItsWriters : Obligations.EachRegisterHasItsWriters := by
  unfold Obligations.EachRegisterHasItsWriters
  intro i s t ht
  obtain ⟨u, e, hu, heffect⟩ := exec_effect i s
  cases ht.symm.trans hu
  have hframe := heffect.frame
  refine ⟨?_, fun hsched hF hR => ?_, fun hxform hinvoke => ?_, fun henc hdec => ?_⟩
  · rw [hframe]; rfl
  · cases heffect with
    | kschedF set ksel => exact absurd rfl (hsched set ksel).1
    | kschedR set ksel => exact absurd rfl (hsched set ksel).2
    | kcombF => exact absurd rfl hF
    | kcombR => exact absurd rfl hR
    | _ => exact ⟨rfl, rfl⟩
  · cases heffect with
    | xform set => exact absurd rfl (hxform set)
    | invoke => exact absurd rfl hinvoke
    | kcombF n | kcombR n => simp
    | _ => rfl
  · cases heffect with
    | cbc _ hi => exact absurd hi (by simp [henc, hdec])
    | kcombF n | kcombR n => simp
    | _ => exact ⟨rfl, rfl⟩

/-- R23 to R31, R70. What a command leaves as it was. -/
theorem exec_frame {i : Instr} {s t : State} (h : exec i s = .next t) :
    t = { s with
      status := { s.status with busy := false, done := true, err := t.status.err }
      rks := t.rks, rksDir := t.rksDir, blk := t.blk, chain := t.chain, dmem := t.dmem } :=
  (eachRegisterHasItsWriters i s t h).1

/-- R204. STATUS after a command. -/
theorem exec_status {i : Instr} {s t : State} (h : exec i s = .next t) :
    t.status = { s.status with busy := false, done := true, err := t.status.err } :=
  congrArg State.status (exec_frame h)

/-- Settles O8: every command answers, and its completion step is the only write of STATUS. -/
theorem everyCommandCompletes : Obligations.EveryCommandCompletes := by
  unfold Obligations.EveryCommandCompletes
  intro i s
  obtain ⟨u, e, h, -⟩ := exec_effect i s
  exact ⟨_, h, exec_status h⟩

/-- R70, R74. The completion step of the command in flight answers. -/
theorem exists_runCommand (s : State) : ∃ t, runCommand s = .next t := by
  cases h : decode s.cmd with
  | ok i =>
    obtain ⟨t, ht, -⟩ := everyCommandCompletes i s
    exact ⟨t, (runCommand_ok s i h).trans ht⟩
  | error e => exact ⟨_, runCommand_error s e h⟩

/-- R20, R70. Everything a step can be: the completion of the command in flight, or the host's next access, which uses up
one step of latency when a command is in flight. -/
theorem step_cases (s : State) :
    (s.status.busy = true ∧ s.latencyLeft = 0 ∧ step s = runCommand s) ∨
    (∃ n, s.status.busy = true ∧ s.latencyLeft = n + 1 ∧ step s = .next (s.tick n).hostStep) ∨
    (s.status.busy = false ∧ step s = .next s.hostStep) := by
  cases hb : s.status.busy with
  | false => exact .inr (.inr ⟨rfl, step_idle s hb⟩)
  | true =>
    cases hl : s.latencyLeft with
    | zero => exact .inl ⟨rfl, rfl, step_complete s hb hl⟩
    | succ n => exact .inr (.inl ⟨n, rfl, rfl, step_inFlight s n hb hl⟩)

/-- Settles O9: a completion answers because every command does, and the host's accesses always answer. -/
theorem everyStepAnswersNextState : Obligations.EveryStepAnswersNextState := by
  unfold Obligations.EveryStepAnswersNextState
  intro s
  rcases step_cases s with ⟨-, -, h⟩ | ⟨n, -, -, h⟩ | ⟨-, h⟩ <;> rw [h]
  · exact exists_runCommand s
  · exact ⟨_, rfl⟩
  · exact ⟨_, rfl⟩

end Sys2Proof.Machine
end

section
/-! Proofs of the statements on the machine's invariant (Sys2Proof/Safety.lean). -/

namespace Sys2Proof.Machine

open Sys2Proof.Statements

/-! ## DMEM and the padding of the stored round keys -/

/-- R50. What is in order about DMEM depends on the written bytes and the bounds only. -/
theorem DmemOk.congr {s t : State} (h : DmemOk s) (hdmem : t.dmem = s.dmem) (hparams : t.params = s.params) : DmemOk t where
  canonical := hdmem ▸ h.canonical
  exist := by rw [hdmem, hparams]; exact h.exist

/-- R50. A store inside DMEM keeps it canonical and inside its bounds. -/
theorem DmemOk.storeBytes {s : State} (h : DmemOk s) {a : Nat} {bs : List Byte} (hin : a + bs.length ≤ s.params.dmemBytes) :
    DmemOk (s.storeBytes a bs) where
  canonical := Memory.wf_setBytes bs s.dmem a h.canonical
  exist c hc := by
    rcases Memory.mem_setBytes bs s.dmem a c hc with hnew | hold
    · exact Nat.lt_of_lt_of_le hnew.2 hin
    · exact h.exist c hold

/-- R30. Every round key of a set has zero padding. -/
def setPadded (K : RoundKeySet) : Prop := ∀ i : Fin 16, paddingZero K[i]

/-- R30. Every round key of the store has zero padding. -/
def rksPadded (rks : Vector RoundKeySet 3) : Prop := ∀ j : Fin 3, setPadded rks[j]

/-- R30. Every round key of a chain has zero padding. -/
def chainPadded : Schedules → Prop
  | .oneKey s0 => setPadded s0
  | .twoKey s0 s1 => setPadded s0 ∧ setPadded s1
  | .threeKey s0 s1 s2 => setPadded s0 ∧ setPadded s1 ∧ setPadded s2

/-- R106. -/
theorem setPadded_scheduleF (key : U64) : setPadded (scheduleF key) := fun i => scheduleF_padding key i.val i.isLt

/-- R106, R122. -/
theorem setPadded_scheduleR (key : U64) : setPadded (scheduleR key) := fun i => scheduleR_padding key i.val i.isLt

theorem chainPadded_combineF (K : Vector U64 3) (n : KeyCount) : chainPadded (combineF K n) := by
  cases n <;> simp only [combineF, chainPadded, setPadded_scheduleF, setPadded_scheduleR, and_self]

theorem chainPadded_combineR (K : Vector U64 3) (n : KeyCount) : chainPadded (combineR K n) := by
  cases n <;> simp only [combineR, chainPadded, setPadded_scheduleF, setPadded_scheduleR, and_self]

/-- R30. Writing a padded set keeps the store padded. -/
theorem rksPadded_writeRks {s : State} (h : rksPadded s.rks) (j : Fin 3) (d : Direction) {K : RoundKeySet}
    (hK : setPadded K) : rksPadded (s.writeRks j d K).rks := by
  intro k
  by_cases hjk : j.val = k.val
  · have hset : (s.writeRks j d K).rks[k] = K := by simp [hjk]
    rwa [hset]
  · have hset : (s.writeRks j d K).rks[k] = s.rks[k] := Vector.getElem_set_ne j.isLt k.isLt hjk
    rw [hset]
    exact h k

/-- R30. Storing the sets of a padded chain keeps the store padded. -/
theorem rksPadded_storeSchedules {s : State} (h : rksPadded s.rks) (even odd : Direction) {S : Schedules}
    (hS : chainPadded S) : rksPadded (s.storeSchedules even odd S).rks := by
  cases S with
  | oneKey s0 => exact rksPadded_writeRks h 0 even hS
  | twoKey s0 s1 => exact rksPadded_writeRks (rksPadded_writeRks h 0 even hS.1) 1 odd hS.2
  | threeKey s0 s1 s2 =>
    obtain ⟨h0, h1, h2⟩ := hS
    exact rksPadded_writeRks (rksPadded_writeRks (rksPadded_writeRks h 0 even h0) 1 odd h1) 2 even h2

/-! ## The invariant under the effect of a command -/

section
variable {s u : State} {i : Instr}

/-- R30. Every effect keeps the store padded. -/
theorem Effect.rksPadded (h : Effect s i u) (hs : rksPadded s.rks) : rksPadded u.rks := by
  cases h with
  | kschedF set ksel j k => exact rksPadded_writeRks hs j .forward (setPadded_scheduleF _)
  | kschedR set ksel j k => exact rksPadded_writeRks hs j .reverse (setPadded_scheduleR _)
  | kcombF n => exact rksPadded_storeSchedules hs _ _ (chainPadded_combineF s.keys n)
  | kcombR n => exact rksPadded_storeSchedules hs _ _ (chainPadded_combineR s.keys n)
  | _ => exact hs

/-- R50. Every effect keeps DMEM in order. -/
theorem Effect.dmemOk (h : Effect s i u) (hs : DmemOk s) : DmemOk u := by
  cases h with
  | cbc _ _ a bs v hin => exact (hs.storeBytes hin).congr rfl rfl
  | kcombF n | kcombR n => exact hs.congr (by simp) (by simp)
  | _ => exact hs.congr rfl rfl

/-- The invariant at the completion step of a command, once its latency has run out. -/
theorem Inv.exec {t : State} (hs : Inv s) (hl : s.latencyLeft = 0) (h : exec i s = .next t) : Inv t := by
  obtain ⟨u, e, hu, heffect⟩ := exec_effect i s
  cases h.symm.trans hu
  have hframe := heffect.frame
  have hdmem := heffect.dmemOk hs.dmem
  exact {
    params := by rw [hframe]; exact hs.params
    dmem := hdmem.congr rfl rfl
    padding := heffect.rksPadded hs.padding
    inFlight := nofun
    idle := fun _ => by rw [hframe]; exact hl
    drawn := by rw [hframe]; exact hs.drawn }

end

/-! ## The invariant under the host's accesses -/

section
variable {s : State} (h : Inv s)
include h

theorem Inv.complete (hl : s.latencyLeft = 0) (e : ErrorCode) : Inv (s.complete e) :=
  ⟨h.params, h.dmem.congr rfl rfl, h.padding, nofun, fun _ => hl, h.drawn⟩

theorem Inv.tick (hb : s.status.busy = true) (n : Nat) : Inv (s.tick n) :=
  ⟨h.params, h.dmem.congr rfl rfl, h.padding, h.inFlight, fun hidle => by simp [hb] at hidle, h.drawn⟩

theorem Inv.answered (rest : List HostOp) (r : Response) : Inv (s.answered rest r) :=
  ⟨h.params, h.dmem.congr rfl rfl, h.padding, h.inFlight, h.idle, h.drawn⟩

theorem Inv.accept (w : U32) : Inv (s.accept w) :=
  ⟨h.params, h.dmem.congr rfl rfl, h.padding, fun _ => ⟨rfl, rfl⟩, nofun, Nat.lt_succ_of_lt h.drawn⟩

theorem Inv.loseCommand : Inv s.loseCommand :=
  ⟨h.params, h.dmem.congr rfl rfl, h.padding, h.inFlight, h.idle, h.drawn⟩

theorem Inv.loseWrite : Inv s.loseWrite :=
  ⟨h.params, h.dmem.congr rfl rfl, h.padding, h.inFlight, h.idle, h.drawn⟩

theorem Inv.writeStatus (v : U32) : Inv (s.writeStatus v) :=
  ⟨h.params, h.dmem.congr rfl rfl, h.padding, fun hb => (h.inFlight hb).imp_left fun hd => by simp [hd], h.idle,
    h.drawn⟩

theorem Inv.writeReg (r : Reg) (v : U32) : Inv (s.writeReg r v) := by
  cases r <;> exact ⟨h.params, h.dmem.congr rfl rfl, h.padding, h.inFlight, h.idle, h.drawn⟩

theorem Inv.storeBytes {a : Nat} {bs : List Byte} (hin : a + bs.length ≤ s.params.dmemBytes) : Inv (s.storeBytes a bs) :=
  ⟨h.params, h.dmem.storeBytes hin, h.padding, h.inFlight, h.idle, h.drawn⟩

/-- R58. A read draws free values at most. -/
theorem Inv.hostRead (addr : Nat) (w : Width) : Inv (s.hostRead addr w).1 := by
  obtain ⟨hstate, hdraws⟩ := s.hostRead_state addr w
  rw [hstate]
  exact ⟨h.params, h.dmem.congr rfl rfl, h.padding, h.inFlight, h.idle, Nat.lt_of_lt_of_le h.drawn hdraws⟩

/-- R39, R82, R241. A write to a target the access rules allow. -/
theorem Inv.hostWriteTarget {off : Nat} {t : Target} {d : WriteData} (ht : target? s.params off d.width = some t) :
    Inv (s.hostWriteTarget t d) := by
  obtain ⟨hbyte, hword⟩ := target?_dmem_bounds s.params off d.width t ht
  unfold State.hostWriteTarget
  split
  · exact h.writeStatus _
  · split
    · exact h.loseCommand
    · exact h.accept _
  · split
    · exact h.loseWrite
    · exact h.writeReg _ _
  · split
    · exact h.loseWrite
    · obtain ⟨hwidth, hin⟩ := hbyte _ rfl
      cases d <;> cases hwidth
      exact h.storeBytes hin
  · split
    · exact h.loseWrite
    · obtain ⟨hwidth, hin⟩ := hword _ rfl
      cases d <;> cases hwidth
      exact h.storeBytes hin

theorem Inv.hostWrite (addr : Nat) (d : WriteData) : Inv (s.hostWrite addr d).1 := by
  rcases s.hostWrite_cases addr d with heq | ⟨off, t, ht, heq⟩ <;> rw [heq]
  · exact h
  · exact h.hostWriteTarget ht

end

/-- R230. The invariant holds after a reset with legal parameters. -/
theorem inv_afterReset {p : Params} (hp : p.Legal) (source d : Nat) (ops : List HostOp) (log : List Response) :
    Inv (State.afterReset p source d ops log) where
  params := hp
  dmem := ⟨List.Pairwise.nil, nofun⟩
  padding := fun j i => by
    have hzero : (Vector.replicate 3 (Vector.replicate 16 0#64))[j][i] = 0#64 := by simp
    exact (congrArg (· &&& 0xC0C0C0C0C0C0C0C0#64) hzero).trans BitVec.zero_and
  inFlight := nofun
  idle := fun _ => rfl
  drawn := Nat.lt_succ_self d

/-- Settles O11: nothing is written yet, and nothing is in flight. -/
theorem resetHasTheInvariant : Obligations.ResetHasTheInvariant := by
  unfold Obligations.ResetHasTheInvariant
  exact ⟨inv_afterReset (by decide) 0 0 [] [], fun _ source d ops log hp => inv_afterReset hp source d ops log⟩

/-- The host's next access keeps the invariant. -/
theorem Inv.hostStep {s : State} (h : Inv s) : Inv s.hostStep := by
  cases hhost : s.host with
  | nil => rwa [hostStep_nil s hhost]
  | cons op rest =>
    cases op with
    | read addr w =>
      rw [hostStep_read s addr w rest hhost]
      exact (h.hostRead addr w).answered rest _
    | write addr d =>
      rw [hostStep_write s addr d rest hhost]
      exact (h.hostWrite addr d).answered rest _
    | wait =>
      rw [hostStep_wait s rest hhost]
      exact h.answered _ _
    | reset =>
      rw [hostStep_reset s rest hhost]
      exact inv_afterReset h.params _ _ _ _

/-- The completion of the command in flight keeps the invariant. -/
theorem Inv.runCommand {s t : State} (h : Inv s) (hl : s.latencyLeft = 0) (ht : runCommand s = .next t) : Inv t := by
  cases hcmd : decode s.cmd with
  | ok i => exact h.exec hl ((runCommand_ok s i hcmd).symm.trans ht)
  | error e =>
    cases (runCommand_error s e hcmd).symm.trans ht
    exact h.complete hl _

/-- Settles O10: a step is the completion of the command in flight or an access of the host, and each keeps the invariant. -/
theorem stepKeepsTheInvariant : Obligations.StepKeepsTheInvariant := by
  unfold Obligations.StepKeepsTheInvariant
  intro s t hs ht
  rcases step_cases s with ⟨-, hl, h⟩ | ⟨n, hb, -, h⟩ | ⟨-, h⟩
  · exact hs.runCommand hl (h.symm.trans ht)
  · cases h.symm.trans ht
    exact (hs.tick hb n).hostStep
  · cases h.symm.trans ht
    exact hs.hostStep

end Sys2Proof.Machine
end

section
/-! Proofs of the statements on steps, runs, reset and instances (30_encoding.md sections 1 and 4, 60_exceptions.md
section 5, 70_reset_and_hazards.md). -/

namespace Sys2Proof.Machine

open Sys2Proof.Statements

/-! ## One step -/

/-- R73. What the decoder reads from an instruction of the table is what its word decodes to. -/
theorem decode_of_decodeTableWord {nbits w : Nat} {i : Instr} (h : decodeTableWord nbits w = some i) :
    decode (tableWord nbits w) = .ok i := by
  unfold decodeTableWord at h
  split at h
  · split at h
    next hok =>
      cases h
      exact hok
    next => cases h
  · cases h

/-- Settles O4: the two kinds of step, the completion and the host's access, each by its equation. -/
theorem stepRunsTheDecodedCommand : Obligations.StepRunsTheDecodedCommand := by
  unfold Obligations.StepRunsTheDecodedCommand
  refine ⟨fun s i hb hl hi => ?_, fun s nbits w i hi => ?_, fun s addr w rest hhost => ⟨fun hb => ?_, fun n hb hl => ?_⟩,
    fun s addr d rest hhost => ⟨fun hb => ?_, fun n hb hl => ?_⟩, fun s hb hhost => ?_⟩
  · rw [step_complete s hb hl, runCommand_ok s i hi]
  · rw [step_complete (s.withFetchWord nbits w) rfl rfl]
    exact runCommand_ok _ i (decode_of_decodeTableWord hi)
  · rw [step_idle s hb, hostStep_read s addr w rest hhost, State.answered, State.hostRead_log]
  · rw [step_inFlight s n hb hl, hostStep_read (s.tick n) addr w rest hhost, State.answered, State.hostRead_log]
    rfl
  · rw [step_idle s hb, hostStep_write s addr d rest hhost, State.answered, State.hostWrite_log]
  · rw [step_inFlight s n hb hl, hostStep_write (s.tick n) addr d rest hhost, State.answered, State.hostWrite_log]
    rfl
  · rw [step_idle s hb, hostStep_nil s hhost]

/-- R70. A step with no command in flight in which the host writes CMD. -/
theorem step_acceptCommand {s : State} {w : U32} {rest : List HostOp} (hb : s.status.busy = false)
    (hhost : s.host = .write (s.params.base + 0x000) (.word w) :: rest) :
    step s = .next ((s.accept w).answered rest .written) := by
  rw [step_idle s hb, hostStep_write s _ _ rest hhost, hostWrite_cmd]
  simp [hb]

/-- Settles O5: the step is the host's write, which the idle block accepts. -/
theorem commandWordIsAccepted : Obligations.CommandWordIsAccepted := by
  unfold Obligations.CommandWordIsAccepted
  intro s w rest hb hhost
  exact step_acceptCommand hb hhost

/-- Settles O6: the step is the host's write, which the block loses under a running command. -/
theorem commandWrittenWhileBusyIsDropped : Obligations.CommandWrittenWhileBusyIsDropped := by
  unfold Obligations.CommandWrittenWhileBusyIsDropped
  intro s w rest n hb hl hhost
  have hwrite : (s.tick n).hostWrite (s.params.base + 0x000) (.word w) = ((s.tick n).loseCommand, .written) := by
    refine (hostWrite_cmd (s.tick n) w).trans ?_
    simp [hb]
  rw [step_inFlight s n hb hl, hostStep_write (s.tick n) _ _ rest hhost, hwrite]
  rfl

/-- R76. A poll of `wait` under a running command. -/
theorem step_waitBusy {s : State} {rest : List HostOp} {n : Nat} (hhost : s.host = .wait :: rest)
    (hb : s.status.busy = true) (hl : s.latencyLeft = n + 1) :
    step s = .next { s with latencyLeft := n, log := .data32 (statusWord s.status) :: s.log } := by
  rw [step_inFlight s n hb hl, hostStep_wait (s.tick n) rest hhost, State.tick_status, hb, if_pos rfl, ← hhost]
  rfl

/-- R76. The last poll of `wait`. -/
theorem step_waitIdle {s : State} {rest : List HostOp} (hhost : s.host = .wait :: rest) (hb : s.status.busy = false) :
    step s = .next { s with host := rest, log := .data32 (statusWord s.status) :: s.log } := by
  rw [step_idle s hb, hostStep_wait s rest hhost, hb]
  rfl

/-- Settles O7: a poll under a running command, and the last one. -/
theorem waitPollsUntilIdle : Obligations.WaitPollsUntilIdle := by
  unfold Obligations.WaitPollsUntilIdle
  exact fun s rest hhost => ⟨fun n hb hl => step_waitBusy hhost hb hl, fun hb => step_waitIdle hhost hb⟩

/-! ## The host under a running command -/

/-- Settles O26: a read draws free values at most, and a write clears W1C bits or is lost. -/
theorem hostCannotDisturbTheRunningCommand : Obligations.HostCannotDisturbTheRunningCommand := by
  unfold Obligations.HostCannotDisturbTheRunningCommand
  intro s hb hreset
  cases hhost : s.host with
  | nil => rw [hostStep_nil s hhost]
  | cons op rest =>
    cases op with
    | read addr w =>
      obtain ⟨hread, -⟩ := s.hostRead_state addr w
      rw [hostStep_read s addr w rest hhost, hread]
      rfl
    | write addr d =>
      rw [hostStep_write s addr d rest hhost]
      rcases s.hostWrite_cases addr d with hwrite | ⟨_, t, _, hwrite⟩
      · rw [hwrite]
        rfl
      · rw [hwrite]
        rcases s.hostWriteTarget_busy t d hb with h | h | h <;> rw [h] <;> rfl
    | wait =>
      rw [hostStep_wait s rest hhost]
      rfl
    | reset => exact absurd hhost (hreset rest)

/-- R20. What the host has left to do after an access is part of what it had. -/
theorem mem_host_of_mem_hostStep {s : State} {op : HostOp} (h : op ∈ s.hostStep.host) : op ∈ s.host := by
  cases hhost : s.host with
  | nil => rwa [hostStep_nil s hhost, hhost] at h
  | cons op' rest =>
    cases op' with
    | read addr w =>
      rw [hostStep_read s addr w rest hhost] at h
      exact List.mem_cons_of_mem _ h
    | write addr d =>
      rw [hostStep_write s addr d rest hhost] at h
      exact List.mem_cons_of_mem _ h
    | reset =>
      rw [hostStep_reset s rest hhost] at h
      exact List.mem_cons_of_mem _ h
    | wait =>
      rw [hostStep_wait s rest hhost, State.answered_host] at h
      split at h
      · exact h
      · exact List.mem_cons_of_mem _ h

/-- `t` is `s` but for the W1C bits of STATUS, the latency left, the draws and the host side. -/
def sameCore (s t : State) : Prop :=
  ∃ (dn cl wl : Bool) (l d : Nat) (ho : List HostOp) (lg : List Response), t = { s with
    status := { s.status with done := dn, cmdlost := cl, wlost := wl }
    latencyLeft := l, draws := d, host := ho, log := lg }

theorem sameCore.refl (s : State) : sameCore s s := ⟨_, _, _, _, _, _, _, rfl⟩

theorem sameCore.trans {s t u : State} (h : sameCore s t) (h' : sameCore t u) : sameCore s u := by
  obtain ⟨_, _, _, _, _, _, _, rfl⟩ := h
  obtain ⟨_, _, _, _, _, _, _, rfl⟩ := h'
  exact ⟨_, _, _, _, _, _, _, rfl⟩

/-- R39, R58. A step before the completion, short of a reset, leaves the core as it is and uses up one step of latency. -/
theorem step_beforeCompletion {s : State} {n : Nat} (hb : s.status.busy = true) (hl : s.latencyLeft = n + 1)
    (hreset : ∀ op ∈ s.host, op ≠ .reset) : ∃ t, step s = .next t ∧ sameCore s t ∧ t.status.busy = true ∧
      t.latencyLeft = n ∧ ∀ op ∈ t.host, op ≠ .reset := by
  have hhead : ∀ rest, (s.tick n).host ≠ .reset :: rest := fun rest h =>
    hreset .reset (by rw [← State.tick_host s n, h]; exact List.mem_cons_self) rfl
  have hkept := hostCannotDisturbTheRunningCommand (s.tick n) hb hhead
  refine ⟨_, step_inFlight s n hb hl, ⟨_, _, _, _, _, _, _, hkept⟩, ?_, ?_,
    fun op hop => hreset op (mem_host_of_mem_hostStep (s := s.tick n) hop)⟩
  · exact (congrArg (·.status.busy) hkept).trans hb
  · exact congrArg State.latencyLeft hkept

/-- R39, R58, R245. The state in which a command in flight completes has the core it was accepted with. -/
theorem steps_untilCompletion (n : Nat) {s : State} (hb : s.status.busy = true) (hl : s.latencyLeft = n)
    (hreset : ∀ op ∈ s.host, op ≠ .reset) :
    ∃ t, steps n s = .next t ∧ sameCore s t ∧ t.status.busy = true ∧ t.latencyLeft = 0 := by
  induction n generalizing s with
  | zero => exact ⟨s, rfl, sameCore.refl s, hb, hl⟩
  | succ n ih =>
    obtain ⟨t, hstep, hst, htb, htl, htreset⟩ := step_beforeCompletion hb hl hreset
    obtain ⟨u, hsteps, htu, hub, hul⟩ := ih htb htl htreset
    exact ⟨u, (steps_succ n s t hstep).trans hsteps, hst.trans htu, hub, hul⟩

/-- A run of one step more. -/
theorem steps_add_one {n : Nat} {s t : State} (h : steps n s = .next t) : steps (n + 1) s = step t := by
  rw [steps_add n 1 s t h]
  obtain ⟨u, hu⟩ := everyStepAnswersNextState t
  rw [steps_succ 0 t u hu, hu, steps_zero]

/-- R245. The run of a command in flight ends with its completion step, from the core it was accepted with. -/
theorem steps_completion {s : State} (hb : s.status.busy = true) (hreset : ∀ op ∈ s.host, op ≠ .reset) :
    ∃ t, sameCore s t ∧ steps (s.latencyLeft + 1) s = runCommand t := by
  obtain ⟨t, hsteps, hst, htb, htl⟩ := steps_untilCompletion s.latencyLeft hb rfl hreset
  exact ⟨t, hst, by rw [steps_add_one hsteps, step_complete t htb htl]⟩

/-- R70. A completion step leaves BUSY = 0 and DONE = 1. -/
theorem runCommand_status {s t : State} (h : runCommand s = .next t) : t.status.busy = false ∧ t.status.done = true := by
  cases hcmd : decode s.cmd with
  | ok i =>
    have hstatus := exec_status ((runCommand_ok s i hcmd).symm.trans h)
    rw [hstatus]
    exact ⟨rfl, rfl⟩
  | error e =>
    cases (runCommand_error s e hcmd).symm.trans h
    exact ⟨rfl, rfl⟩

/-- Settles O12: the host's accesses before the completion step leave the command in flight. -/
theorem commandInFlightCompletes : Obligations.CommandInFlightCompletes := by
  unfold Obligations.CommandInFlightCompletes
  intro s hb hreset
  obtain ⟨t, -, hsteps⟩ := steps_completion hb hreset
  obtain ⟨u, hu⟩ := exists_runCommand t
  exact ⟨u, hsteps.trans hu, runCommand_status hu⟩

/-- R245. Completion steps from one core end in one core. -/
theorem runCommand_sameCore {s t : State} (h : sameCore s t) :
    ∃ u v, runCommand s = .next u ∧ runCommand t = .next v ∧ sameCore u v ∧ v.status.err = u.status.err := by
  obtain ⟨dn, cl, wl, l, d, ho, lg, rfl⟩ := h
  cases hcmd : decode s.cmd with
  | ok i =>
    obtain ⟨u, hu, hv⟩ := exec_hostSide i s dn cl wl l d ho lg
    exact ⟨u, _, (runCommand_ok s i hcmd).trans hu, (runCommand_ok _ i (by exact hcmd)).trans hv,
      ⟨_, _, _, _, _, _, _, rfl⟩, rfl⟩
  | error e =>
    exact ⟨_, _, runCommand_error _ e hcmd, runCommand_error _ e hcmd, ⟨_, _, _, _, _, _, _, rfl⟩, rfl⟩

/-- Settles O13: the command completes from the core it was accepted with, and its effect depends on nothing else. -/
theorem resultDoesNotDependOnLatency : Obligations.ResultDoesNotDependOnLatency := by
  unfold Obligations.ResultDoesNotDependOnLatency
  intro s t hb hreset hsteps
  obtain ⟨s', hcore, hrun⟩ := steps_completion hb hreset
  obtain ⟨u, v, hu, hv, ⟨dn, cl, wl, l, d, ho, lg, rfl⟩, herr⟩ := runCommand_sameCore hcore
  cases hsteps.symm.trans (hrun.trans hv)
  exact ⟨u, hu, rfl, rfl, rfl, rfl, rfl, rfl, rfl, rfl, rfl, rfl, rfl, rfl, rfl, rfl, rfl, herr⟩

/-! ## Reset and instances -/

/-- R230. Every register has its reset value after a reset. -/
theorem resetRegisters_afterReset (p : Params) (source d : Nat) (ops : List HostOp) (log : List Response) :
    resetRegisters (State.afterReset p source d ops log) := by
  have hstatus : statusWord State.reset.status = 0#32 := by decide
  refine ⟨rfl, hstatus, rfl, fun k => ?_, rfl, rfl, rfl, rfl, rfl, rfl, rfl, fun j i => ?_, rfl⟩ <;> simp [State.afterReset]

/-- Settles O14: no byte of DMEM is written, so each is the draw made at reset. -/
theorem resetStateOfR230 : Obligations.ResetStateOfR230 := by
  unfold Obligations.ResetStateOfR230
  exact ⟨resetRegisters_afterReset _ _ _ _ _, fun _ => rfl⟩

/-- Settles O15: the step is the host's reset, not the completion. -/
theorem resetAbandonsTheCommand : Obligations.ResetAbandonsTheCommand := by
  unfold Obligations.ResetAbandonsTheCommand
  intro s rest hhost hlatency
  have hreset : ∃ source, step s = .next (State.afterReset s.params source s.draws rest s.log) := by
    rcases step_cases s with ⟨hb, hl, -⟩ | ⟨n, -, -, h⟩ | ⟨-, h⟩
    · exact absurd hl (hlatency hb)
    · exact ⟨_, h.trans (congrArg _ (hostStep_reset (s.tick n) rest hhost))⟩
    · exact ⟨_, h.trans (congrArg _ (hostStep_reset s rest hhost))⟩
  obtain ⟨source, hstep⟩ := hreset
  exact ⟨_, hstep, resetRegisters_afterReset _ _ _ _ _, fun _ => rfl, rfl, rfl, Nat.lt_succ_self _⟩

/-- Settles O58: a step replaces one entry of the list with its next state, and no other. -/
theorem instancesAreIndependent : Obligations.InstancesAreIndependent := by
  unfold Obligations.InstancesAreIndependent
  refine ⟨fun sys k => ?_, fun ps => ⟨List.length_mapIdx, fun k s hs => ?_⟩⟩
  · cases hk : sys[k]? with
    | none => exact ⟨sys, by simp only [stepInstance, hk], rfl, fun _ _ => rfl, nofun⟩
    | some s =>
      obtain ⟨t, ht⟩ := everyStepAnswersNextState s
      refine ⟨sys.set k t, by simp only [stepInstance, hk, ht], List.length_set, fun j hj => ?_, fun s' hs' => ?_⟩
      · exact List.getElem?_set_ne hj.symm
      · cases hs'
        obtain ⟨hlt, -⟩ := List.getElem?_eq_some_iff.1 hk
        exact ⟨t, ht, List.getElem?_set_self hlt⟩
  · rw [System.reset, List.getElem?_mapIdx] at hs
    cases hp : ps[k]? with
    | none => simp [hp] at hs
    | some p =>
      rw [hp] at hs
      cases hs
      exact ⟨resetRegisters_afterReset _ _ _ _ _, rfl, rfl⟩

/-! ## The pseudo-commands `do` and `wrbuf` -/

/-- R76. Polls under a running command use up its latency and add to the record of answers, nothing else. -/
theorem steps_waitBusy (n : Nat) {s : State} {rest : List HostOp} (hhost : s.host = .wait :: rest)
    (hb : s.status.busy = true) (hl : s.latencyLeft = n) :
    ∃ lg, steps n s = .next { s with latencyLeft := 0, log := lg } := by
  induction n generalizing s with
  | zero => exact ⟨s.log, by rw [steps_zero, ← hl]⟩
  | succ n ih =>
    obtain ⟨lg, h⟩ := ih (s := { s with latencyLeft := n, log := .data32 (statusWord s.status) :: s.log }) hhost hb rfl
    exact ⟨lg, (steps_succ n s _ (step_waitBusy hhost hb hl)).trans h⟩

/-- R70. The state that the acceptance of the word `w` puts before the core, with its latency run out. -/
def State.accepted (s : State) (w : U32) : State := { s with
  cmd := w
  status := { s.status with busy := true, done := false, err := .none }
  latencyLeft := 0 }

/-- R76. A command written to CMD and polled for is about to complete when its latency has run out. -/
theorem steps_doCommand {s : State} {w : U32} {rest : List HostOp} (hb : s.status.busy = false)
    (hhost : s.host = .write (s.params.base + 0x000) (.word w) :: .wait :: rest) :
    ∃ lg, steps (Config.latency s w + 1) s =
      .next { s.accepted w with draws := s.draws + 1, host := .wait :: rest, log := lg } := by
  obtain ⟨lg, h⟩ := steps_waitBusy (Config.latency s w) (s := (s.accept w).answered (.wait :: rest) .written) rfl rfl rfl
  exact ⟨lg, (steps_succ _ s _ (step_acceptCommand hb hhost)).trans h⟩

/-- Settles O59: the command completes from the accepted state but for the host side, which no command reads, and the next
poll ends the `wait`. -/
theorem doCommandRunsTheCommand : Obligations.DoCommandRunsTheCommand := by
  unfold Obligations.DoCommandRunsTheCommand
  intro s i rest hb hi hhost
  obtain ⟨lg, hready⟩ := steps_doCommand hb hhost
  obtain ⟨u, hu, hv⟩ := exec_hostSide i (s.accepted (encode i)) false s.status.cmdlost s.status.wlost 0 (s.draws + 1)
    (.wait :: rest) lg
  have hcompletion : steps (Config.latency s (encode i) + 2) s = .next { u with
      status := { u.status with cmdlost := s.status.cmdlost, wlost := s.status.wlost }
      latencyLeft := 0, draws := s.draws + 1, host := .wait :: rest, log := lg } := by
    rw [steps_add_one hready, step_complete _ rfl rfl]
    exact (runCommand_ok _ i (by exact decode_encode hi)).trans hv
  have hframe := exec_frame hu
  have hidle : u.status.busy = false := by rw [exec_status hu]
  refine ⟨_, u, (steps_add_one hcompletion).trans (step_waitIdle rfl hidle), hu, ?_⟩
  rw [hframe]
  rfl

/-- R76. The bytes of `wrbuf` written one by one are the store of the sequence. -/
theorem steps_wrbuf (bs : List Byte) {s : State} {a : Nat} {rest : List HostOp} (hb : s.status.busy = false)
    (hp : s.params.Legal) (ha : a + bs.length ≤ s.params.dmemBytes) (hhost : s.host = wrbuf s.params a bs ++ rest) :
    ∃ lg, steps bs.length s = .next { s.storeBytes a bs with host := rest, log := lg } := by
  induction bs generalizing s a with
  | nil => exact ⟨s.log, by rw [← show s.host = rest from hhost]; rfl⟩
  | cons b bs ih =>
    rw [List.length_cons] at ha
    have hwrite := s.hostWrite_dmemByte_idle a hb hp b (by omega)
    rw [Nat.add_assoc] at hwrite
    have hstep : step s = .next ((s.storeBytes a [b]).answered (wrbuf s.params (a + 1) bs ++ rest) .written) := by
      rw [step_idle s hb, hostStep_write s _ _ _ hhost, hwrite]
      rfl
    obtain ⟨lg, h⟩ := ih (s := (s.storeBytes a [b]).answered (wrbuf s.params (a + 1) bs ++ rest) .written) (a := a + 1)
      hb hp (by simp only [State.answered_params, State.storeBytes_params]; omega) rfl
    exact ⟨lg, (steps_succ _ s _ hstep).trans h⟩

/-- Settles O60: the bytes end in DMEM as one stored sequence. -/
theorem wrbufFillsDmem : Obligations.WrbufFillsDmem := by
  unfold Obligations.WrbufFillsDmem
  intro s a bs rest hb hp ha hhost
  obtain ⟨lg, hsteps⟩ := steps_wrbuf bs hb hp ha hhost
  exact ⟨_, hsteps, rfl, s.dmemSlice_storeBytes a bs, s.dmemByte_storeBytes_outside a bs, rfl⟩

end Sys2Proof.Machine
end

section
/-! Proofs of the statements on the host bus and the register map (10_state.md section 4, 20_memory.md, 30_encoding.md
section 5, 70_reset_and_hazards.md section 3). -/

namespace Sys2Proof.Machine

open Sys2Proof.Statements

/-! ## Registers through the bus -/

/-- R80. Where the key registers stand. -/
theorem regAt?_key : ∀ k : Fin 3, regAt? (0x020 + 8 * k.val) = some (.key k .hi) ∧
    regAt? (0x024 + 8 * k.val) = some (.key k .lo) := by decide

/-- Settles O16: an idle read of a register word answers its value. -/
theorem registerMapOfR80 : Obligations.RegisterMapOfR80 := by
  unfold Obligations.RegisterMapOfR80
  intro s hb
  have hread := fun off r => s.hostRead_reg_idle off r hb
  refine ⟨hread 0x000 .cmd rfl, hread 0x004 .status rfl, hread 0x008 .kcnt rfl, hread 0x00C .len rfl, hread 0x010 .src rfl,
    hread 0x014 .dst rfl, hread 0x018 (.iv .hi) rfl, hread 0x01C (.iv .lo) rfl, fun k => ?_, hread 0x038 (.blk .hi) rfl,
    hread 0x03C (.blk .lo) rfl, hread 0x040 (.chain .hi) rfl, hread 0x044 (.chain .lo) rfl, hread 0x048 .rksDir rfl⟩
  obtain ⟨hhi, hlo⟩ := regAt?_key k
  rw [Nat.add_assoc, Nat.add_assoc]
  exact ⟨hread _ _ hhi, hread _ _ hlo⟩

/-- R82. A word written to an RW register is that register word. -/
theorem State.readReg_writeReg_self (s : State) {r : Reg} (v : U32) (hr : isRW r = true) :
    (s.writeReg r v).readReg r = v := by
  cases r with
  | kcnt | len | src | dst => rfl
  | iv h | blk h => simp [State.writeReg, State.readReg, halfOf_withHalf]
  | key k h => simp [State.writeReg, State.readReg, halfOf_withHalf]
  | cmd | status | chain | rksDir | rks => cases hr

/-- R82. The other register words stay, the other half of a 64-bit register among them. -/
theorem State.readReg_writeReg_of_ne (s : State) {r r' : Reg} (v : U32) (hne : r' ≠ r) :
    (s.writeReg r v).readReg r' = s.readReg r' := by
  cases r with
  | cmd | status | chain | rksDir | rks => rfl
  | kcnt =>
    cases r' with
    | kcnt => exact absurd rfl hne
    | _ => rfl
  | len =>
    cases r' with
    | len => exact absurd rfl hne
    | _ => rfl
  | src =>
    cases r' with
    | src => exact absurd rfl hne
    | _ => rfl
  | dst =>
    cases r' with
    | dst => exact absurd rfl hne
    | _ => rfl
  | iv h =>
    cases r' with
    | iv h' =>
      have hh : h' ≠ h := fun heq => hne (congrArg Reg.iv heq)
      simp [State.writeReg, State.readReg, halfOf_withHalf, hh]
    | _ => rfl
  | blk h =>
    cases r' with
    | blk h' =>
      have hh : h' ≠ h := fun heq => hne (congrArg Reg.blk heq)
      simp [State.writeReg, State.readReg, halfOf_withHalf, hh]
    | _ => rfl
  | key k h =>
    cases r' with
    | key k' h' =>
      by_cases hk : k = k'
      · subst hk
        have hh : h' ≠ h := fun heq => hne (congrArg (Reg.key k) heq)
        simp [State.writeReg, State.readReg, halfOf_withHalf, hh]
      · have hk' : k.val ≠ k'.val := Fin.val_ne_of_ne hk
        simp [State.writeReg, State.readReg, Vector.getElem_set_ne _ _ hk']
    | _ => rfl

/-- R82. A register write leaves DMEM alone. -/
@[simp] theorem State.writeReg_dmemByte (s : State) (r : Reg) (v : U32) (x : Nat) :
    (s.writeReg r v).dmemByte x = s.dmemByte x := by
  cases r <;> rfl

@[simp] theorem State.writeReg_params (s : State) (r : Reg) (v : U32) : (s.writeReg r v).params = s.params := by
  cases r <;> rfl

@[simp] theorem State.writeReg_status (s : State) (r : Reg) (v : U32) : (s.writeReg r v).status = s.status := by
  cases r <;> rfl

/-- R82. With no command in flight, an RW register takes the word. -/
theorem State.hostWriteTarget_isRW (s : State) {r : Reg} (d : WriteData) (hb : s.status.busy = false) (hr : isRW r = true) :
    s.hostWriteTarget (.reg r) d = s.writeReg r d.value := by
  cases r with
  | cmd | status => cases hr
  | _ => exact if_neg (by simp [hb])

/-- Settles O18: the write reaches the register at its offset, and the read after it finds the word there. -/
theorem writtenRegisterReadsBack : Obligations.WrittenRegisterReadsBack := by
  unfold Obligations.WrittenRegisterReadsBack
  intro s off r v hb hoff hr
  have hwrite := s.hostWrite_reg off v r hoff
  rw [s.hostWriteTarget_isRW _ hb hr] at hwrite
  have hread := (s.writeReg r v).hostRead_reg_idle off r (by simpa using hb) hoff
  rw [s.readReg_writeReg_self v hr, State.writeReg_params] at hread
  exact ⟨_, hwrite, hread, fun r' hne => s.readReg_writeReg_of_ne v hne, s.writeReg_dmemByte r v⟩

/-- Settles O20: every value of the fields, code by code. -/
theorem statusWordLayout : Obligations.StatusWordLayout := by
  unfold Obligations.StatusWordLayout
  rintro ⟨busy, done, err, cmdlost, wlost⟩
  cases err <;> revert busy done cmdlost wlost <;> decide

/-! ## The access rules -/

/-- R50. An address outside the window has no window offset. -/
theorem windowOffset?_eq_none {p : Params} {addr : Nat} (h : addr < p.base ∨ p.base + 0x10000 ≤ addr) :
    windowOffset? p addr = none :=
  if_neg (by rw [windowBytes]; omega)

/-- R56, R51. Which accesses below DMEM are bus errors. -/
theorem regTarget?_eq_none_iff (off : Nat) (w : Width) :
    regTarget? off w = none ↔ ¬ (w = .word ∧ off % 4 = 0 ∧ (off ≤ 0x04B ∨ (0x400 ≤ off ∧ off ≤ 0x57F))) := by
  cases w with
  | byte | half => simp [regTarget?]
  | word => rw [← regAt?_isSome, regTarget?, Option.map_eq_none_iff]; simp

/-- R54, R56. Which accesses to DMEM are bus errors. -/
theorem dmemTarget?_eq_none_iff (dmemBytes a : Nat) (w : Width) :
    dmemTarget? dmemBytes a w = none ↔
      ¬ ((w = .word ∧ a % 4 = 0 ∧ a + 4 ≤ dmemBytes) ∨ (w = .byte ∧ a < dmemBytes)) := by
  cases w <;> simp [dmemTarget?]

/-- R56, R51. The accesses that are bus errors. -/
theorem target?_eq_none_iff (p : Params) (off : Nat) (w : Width) :
    target? p off w = none ↔
      ¬ ((w = .word ∧ off % 4 = 0 ∧ (off ≤ 0x04B ∨ (0x400 ≤ off ∧ off ≤ 0x57F) ∨
            (0x1000 ≤ off ∧ off + 4 ≤ 0x1000 + p.dmemBytes))) ∨
         (w = .byte ∧ 0x1000 ≤ off ∧ off < 0x1000 + p.dmemBytes)) := by
  rcases Nat.lt_or_ge off 0x1000 with h | h
  · rw [target?_of_lt p off w h, regTarget?_eq_none_iff]
    cases w <;> simp <;> omega
  · rw [target?_of_ge p off w h, dmemTarget?_eq_none_iff]
    cases w <;> simp <;> omega

/-- Settles O21: an access is a bus error exactly when no target is at its offset for its width. -/
theorem busAccessRules : Obligations.BusAccessRules := by
  unfold Obligations.BusAccessRules
  refine ⟨fun s addr d w h => ?_, fun s off d w hoff => ⟨target?_eq_none_iff s.params off w, fun h => ?_, fun h => ?_⟩⟩
  · simp only [State.hostRead, State.hostWrite, windowOffset?_eq_none h, and_self]
  · rw [s.hostRead_add off w hoff, s.hostReadAt_none off w h]
  · rw [s.hostWrite_add off d hoff, s.hostWriteAt_none off d h]

/-! ## DMEM through the bus -/

/-- R10. A concatenation is its two parts, shifted into their places. -/
theorem setWidth_append_shiftLeft {n m : Nat} (x : BitVec n) (y : BitVec m) (W k : Nat) :
    (x ++ y).setWidth W <<< k = x.setWidth W <<< (m + k) ||| y.setWidth W <<< k := by
  apply BitVec.eq_of_getLsbD_eq
  intro i hi
  simp only [BitVec.getLsbD_or, BitVec.getLsbD_shiftLeft, BitVec.getLsbD_setWidth, BitVec.getLsbD_append]
  rcases Nat.lt_or_ge i k with hk | hk
  · simp [hk, show i < m + k by omega]
  · rcases Nat.lt_or_ge i (m + k) with hm | hm
    · simp [hm, show i - k < m by omega, show ¬ i < k by omega]
    · have hlow : y.getLsbD (i - k) = false := BitVec.getLsbD_of_ge _ _ (by omega)
      simp [hi, hlow, show ¬ i < k by omega, show ¬ i - k < m by omega, show ¬ i < m + k by omega,
        show i - k < W by omega, show i - (m + k) < W by omega, Nat.sub_sub, Nat.add_comm k m]

/-- R54. A word of DMEM as its four lanes. -/
theorem State.dmemWord_eq_lanes (s : State) (a : Nat) :
    s.dmemWord a = (s.dmemByte a).setWidth 32 <<< 24 ||| (s.dmemByte (a + 1)).setWidth 32 <<< 16 |||
      (s.dmemByte (a + 2)).setWidth 32 <<< 8 ||| (s.dmemByte (a + 3)).setWidth 32 := by
  have h : s.dmemWord a = (s.dmemWord a).setWidth 32 <<< 0 := by simp
  rw [h, State.dmemWord, setWidth_append_shiftLeft, setWidth_append_shiftLeft, setWidth_append_shiftLeft]
  simp

/-- Settles O22: a word access is the four bytes of its lanes in order, a byte access one byte. -/
theorem dmemLanesOfR54 : Obligations.DmemLanesOfR54 := by
  unfold Obligations.DmemLanesOfR54
  intro s a v b hb hl
  have ⟨_, _, hmax⟩ := hl
  refine ⟨fun h4 ha => ⟨?_, _, s.hostWrite_dmemWord_idle a hb hl v h4 ha, ?_⟩,
    fun ha => ⟨?_, _, s.hostWrite_dmemByte_idle a hb hl b ha, ?_⟩⟩
  · rw [s.hostRead_dmemWord a h4 ha (by omega)]
    simp [State.hostReadTarget, hb, State.readTarget, State.dmemWord_eq_lanes]
  · have hlane := s.dmemByte_storeBytes_inside a (bytes32 v)
    exact ⟨hlane 0 (by simp), hlane 1 (by simp), hlane 2 (by simp), hlane 3 (by simp),
      s.dmemByte_storeBytes_outside a (bytes32 v), rfl⟩
  · rw [s.hostRead_dmemByte a ha (by omega)]
    simp [State.hostReadTarget, hb, State.readTarget]
  · refine ⟨s.dmemByte_storeBytes_inside a [b] 0 (by simp), fun x hx => s.dmemByte_storeBytes_outside a [b] x ?_, rfl⟩
    rw [List.length_singleton]
    omega

/-! ## Reads under a running command -/

/-- R242. The registers that read as any value are those from offset 0x038 on. -/
theorem unspecifiedWhileBusy_reg {off : Nat} {r : Reg} (h : regAt? off = some r) :
    unspecifiedWhileBusy (.reg r) = decide (0x038 ≤ off) := by
  unfold regAt? at h
  split at h
  case h_20 =>
    split at h
    next hwindow =>
      cases h
      exact (decide_eq_true (by omega)).symm
    next => cases h
  all_goals
    cases h
    rfl

/-- R242. A read under a running command that the spec leaves unspecified draws a free value. -/
theorem State.hostReadTarget_free {s : State} {t : Target} (hb : s.status.busy = true)
    (ht : unspecifiedWhileBusy t = true) : s.hostReadTarget t = ({ s with draws := s.draws + 1 }, s.freeRead t) :=
  if_pos (by rw [hb, ht, Bool.and_self])

/-- Settles O25: a register below offset 0x038 reads its value, every other target a free value. -/
theorem readsWhileBusy : Obligations.ReadsWhileBusy := by
  unfold Obligations.ReadsWhileBusy
  intro s off w tgt hb hoff htgt
  rw [s.hostRead_add off w hoff, s.hostReadAt_some off w tgt htgt]
  refine ⟨?_, ?_, ?_, ?_⟩
  · rintro r rfl hlow
    have hreg := unspecifiedWhileBusy_reg (regAt?_of_target? s.params off w r htgt)
    exact if_neg (by simp [hreg, hlow])
  · rintro r rfl hhigh
    have hreg := unspecifiedWhileBusy_reg (regAt?_of_target? s.params off w r htgt)
    exact State.hostReadTarget_free hb (by simp [hreg, hhigh])
  · rintro a rfl
    exact State.hostReadTarget_free hb rfl
  · rintro a rfl
    exact State.hostReadTarget_free hb rfl

end Sys2Proof.Machine
end

section
/-! Proofs of the statements on the stored tables and the key-schedule commands (40_tables.md sections 2 and 3,
41_key_schedule.md). -/

namespace Sys2Proof.Machine

open Sys2Proof.Statements

/-- Settles O28: the 64 entries of each table, one by one. -/
theorem storedTablesComeFromTheClassicalOnes : Obligations.StoredTablesComeFromTheClassicalOnes := by
  unfold Obligations.StoredTablesComeFromTheClassicalOnes
  exact ⟨by decide +kernel, rfl⟩

/-! ## One set written -/

/-- R30, R31. A command that writes one set ends with it and its tag in the store; the other sets and tags, every other
register and DMEM stay. -/
theorem writeRks_succeed (s : State) (j : Fin 3) (d : Direction) (K : RoundKeySet) :
    ∃ t, (s.writeRks j d K).succeed = .next t ∧ t.rks[j] = K ∧ t.rksDir.getLsbD j.val = directionBit d ∧
      (∀ k : Fin 3, k.val ≠ j.val → t.rks[k] = s.rks[k] ∧ t.rksDir.getLsbD k.val = s.rksDir.getLsbD k.val) ∧
      t = { completed s .none with rks := t.rks, rksDir := t.rksDir } ∧ ∀ a, t.dmemByte a = s.dmemByte a := by
  refine ⟨_, rfl, Vector.getElem_set_self j.isLt, writeTag_self s.rksDir j d, fun k hk => ⟨?_, ?_⟩, rfl, fun _ => rfl⟩
  · exact Vector.getElem_set_ne j.isLt k.isLt hk.symm
  · exact writeTag_of_ne s.rksDir j k d (Fin.ne_of_val_ne hk)

/-! ## KSCHED_F and KSCHED_R -/

/-- Settles O34: the set written is the forward schedule, each round key in closed form. -/
theorem kschedFResult : Obligations.KschedFResult := by
  unfold Obligations.KschedFResult
  intro set ksel s hset hksel
  obtain ⟨t, ht, hwritten, htag, hothers, hframe, hdmem⟩ :=
    writeRks_succeed s ⟨set.toNat, hset⟩ .forward (scheduleF s.keys[(⟨ksel.toNat, hksel⟩ : Fin 3)])
  have hexec : exec (.kschedF set ksel) s = .next t := by
    simpa only [exec, execKschedF, index3?_of_lt set hset, index3?_of_lt ksel hksel] using ht
  refine ⟨t, hexec, fun i => ?_, htag, hothers, hframe, hdmem⟩
  exact (congrArg (fun K : RoundKeySet => K[i]) hwritten).trans (scheduleF_getElem _ i.val i.isLt)

/-- Settles O35: round key `i` of the reverse schedule is round key `15 - i` of the forward one. -/
theorem kschedRResult : Obligations.KschedRResult := by
  unfold Obligations.KschedRResult
  intro set ksel s hset hksel
  obtain ⟨t, ht, hwritten, htag, hothers, hframe, hdmem⟩ :=
    writeRks_succeed s ⟨set.toNat, hset⟩ .reverse (scheduleR s.keys[(⟨ksel.toNat, hksel⟩ : Fin 3)])
  have hexec : exec (.kschedR set ksel) s = .next t := by
    simpa only [exec, execKschedR, index3?_of_lt set hset, index3?_of_lt ksel hksel] using ht
  refine ⟨t, hexec, fun i => ?_, htag, hothers, hframe, hdmem⟩
  have hkey := (scheduleR_getElem s.keys[ksel.toNat] i.val i.isLt).trans (scheduleF_getElem _ (15 - i.val) (by omega))
  exact (congrArg (fun K : RoundKeySet => K[i]) hwritten).trans hkey

/-- Settles O36: a field that is 3 names no set or key. -/
theorem indexThreeIsIllegal : Obligations.IndexThreeIsIllegal := by
  unfold Obligations.IndexThreeIsIllegal
  intro set ksel s h
  have hnone : index3? set = none ∨ index3? ksel = none := h.imp (index3?_eq_none set).2 (index3?_eq_none ksel).2
  refine ⟨?_, ?_, ?_⟩
  · rcases execKschedF_cases set ksel s with ⟨j, k, hj, hk, -⟩ | ⟨-, hF⟩
    · simp [hj, hk] at hnone
    · exact hF
  · rcases execKschedR_cases set ksel s with ⟨j, k, hj, hk, -⟩ | ⟨-, hR⟩
    · simp [hj, hk] at hnone
    · exact hR
  · rcases execXform_cases 3#2 s with ⟨j, hj, -⟩ | ⟨-, hX⟩
    · simp at hj
    · exact hX

/-! ## KCOMB_F and KCOMB_R -/

/-- R160. The Round Key Sets of a chain in slot order. -/
def Schedules.sets : Schedules → List RoundKeySet
  | .oneKey s0 => [s0]
  | .twoKey s0 s1 => [s0, s1]
  | .threeKey s0 s1 s2 => [s0, s1, s2]

section
variable (s : State) (even odd : Direction) (S : Schedules)

/-- R31. A tag after one is written. -/
theorem writeTag_getLsbD (dir : BitVec 3) (j k : Fin 3) (d : Direction) :
    (writeTag dir j d).getLsbD k.val = if k = j then directionBit d else dir.getLsbD k.val := by
  split
  next h => rw [h, writeTag_self]
  next h => exact writeTag_of_ne dir j k d h

/-- R129, R130. The store holds the sets of the chain in its slots, and keeps the sets beyond. -/
theorem State.storeSchedules_rks (j : Fin 3) : (s.storeSchedules even odd S).rks[j] = (S.sets[j.val]?).getD s.rks[j] := by
  cases S <;> fin_cases j <;> simp [State.storeSchedules, Schedules.sets]

/-- R129, R130. The slots of the chain have their tags, and the tags beyond stay. -/
theorem State.storeSchedules_tag (j : Fin 3) : (s.storeSchedules even odd S).rksDir.getLsbD j.val =
    if j.val < S.sets.length then directionBit (if j = 1 then odd else even) else s.rksDir.getLsbD j.val := by
  cases S <;> simp only [State.storeSchedules, State.writeRks_rksDir, writeTag_getLsbD] <;>
    fin_cases j <;> simp [Schedules.sets]

end

/-- R129, R130. A combination command ends with the sets of its chain in the store and their tags; the sets and tags beyond,
every other register and DMEM stay. -/
theorem storeSchedules_succeed (s : State) (even odd : Direction) (S : Schedules) :
    ∃ t, (s.storeSchedules even odd S).succeed = .next t ∧
      (∀ j : Fin 3, t.rks[j] = (S.sets[j.val]?).getD s.rks[j] ∧ t.rksDir.getLsbD j.val =
        if j.val < S.sets.length then directionBit (if j = 1 then odd else even) else s.rksDir.getLsbD j.val) ∧
      t = { completed s .none with rks := t.rks, rksDir := t.rksDir } ∧ ∀ a, t.dmemByte a = s.dmemByte a := by
  refine ⟨_, rfl, fun j => ⟨s.storeSchedules_rks even odd S j, s.storeSchedules_tag even odd S j⟩, ?_,
    s.storeSchedules_dmemByte even odd S⟩
  rw [State.storeSchedules_eq]
  rfl

/-- Settles O37: the chain of KCNT keys fills the slots below KCNT. -/
theorem kcombFResult : Obligations.KcombFResult := by
  unfold Obligations.KcombFResult
  refine fun s => ⟨fun hcount => ?_, fun hcount => ?_⟩
  · obtain ⟨n, hn⟩ := exists_keyCount?_of_legalCount hcount
    obtain ⟨t, ht, hslots, hframe, hdmem⟩ := storeSchedules_succeed s .forward .reverse (combineF s.keys n)
    have hexec : exec .kcombF s = .next t := by simpa only [exec, execKcombF, hn] using ht
    obtain ⟨hk, rfl⟩ | ⟨hk, rfl⟩ | ⟨hk, rfl⟩ := keyCount?_eq_some s.kcnt n hn
    all_goals
      obtain ⟨hset, htag⟩ := hslots 0
      refine ⟨t, hexec, hset, htag, ?_, ?_, hframe, hdmem⟩
      · simpa [hk, combineF, Schedules.sets, directionBit] using hslots 1
      · simpa [hk, combineF, Schedules.sets, directionBit] using hslots 2
  · simp only [exec, execKcombF, (keyCount?_eq_none s.kcnt).2 hcount]
    rfl

/-- Settles O38: as for KCOMB_F, with the reverse-biased chain. -/
theorem kcombRResult : Obligations.KcombRResult := by
  unfold Obligations.KcombRResult
  refine fun s => ⟨fun hcount => ?_, fun hcount => ?_⟩
  · obtain ⟨n, hn⟩ := exists_keyCount?_of_legalCount hcount
    obtain ⟨t, ht, hslots, hframe, hdmem⟩ := storeSchedules_succeed s .reverse .forward (combineR s.keys n)
    have hexec : exec .kcombR s = .next t := by simpa only [exec, execKcombR, hn] using ht
    obtain ⟨hk, rfl⟩ | ⟨hk, rfl⟩ | ⟨hk, rfl⟩ := keyCount?_eq_some s.kcnt n hn
    all_goals
      obtain ⟨hset, htag⟩ := hslots 0
      refine ⟨t, hexec, ?_, htag, ?_, ?_, hframe, hdmem⟩
      · simpa [hk, combineR, Schedules.sets] using hset
      · simpa [hk, combineR, Schedules.sets, directionBit] using hslots 1
      · simpa [hk, combineR, Schedules.sets, directionBit] using hslots 2
  · simp only [exec, execKcombR, (keyCount?_eq_none s.kcnt).2 hcount]
    rfl

end Sys2Proof.Machine
end

section
/-! Proofs of the statements on the block transform and on chained invocation (42_block_transform.md,
43_chained_invocation.md). -/

namespace Sys2Proof.Machine

open Sys2Proof.Statements

/-! ## The slices of the expansion values, bit by bit -/

section
variable (low : U32) (rk : U64) {p j : Nat} (hp : p ≤ 24) (hj : j < 6)
include hp hj

/-- R140. Bit `j` of a slice of the first expansion value. -/
theorem slice6_expansion1_getLsbD :
    (slice6 (expansion1 low rk) p).getLsbD j = (low.getLsbD ((p + j + 3) % 32) ^^ rk.getLsbD (32 + (p + j))) := by
  have hrotate := rotateLeft32_getLsbD low 29 (p + j) (by omega)
  simp only [slice6, expansion1, BitVec.getLsbD_extractLsb', BitVec.getLsbD_xor, hrotate, hj, show p + j < 32 by omega,
    decide_true, Bool.true_and]

/-- R140. Bit `j` of a slice of the second expansion value. -/
theorem slice6_expansion2_getLsbD :
    (slice6 (expansion2 low rk) p).getLsbD j = (low.getLsbD ((p + j + 31) % 32) ^^ rk.getLsbD (p + j)) := by
  have hrotate := rotateLeft32_getLsbD low 1 (p + j) (by omega)
  simp only [slice6, expansion2, BitVec.getLsbD_extractLsb', BitVec.getLsbD_xor, hrotate, hj, show p + j < 32 by omega,
    decide_true, Bool.true_and, Nat.zero_add]

end

/-! ## The padding bits -/

/-- R140. Two round keys agree in bits 5:0 of each byte. -/
def agreeOutsidePadding (rk rk' : U64) : Prop := ∀ b, b < 64 → b % 8 < 6 → rk.getLsbD b = rk'.getLsbD b

theorem agreeOutsidePadding_of_masked {rk rk' : U64} (h : (rk ^^^ rk') &&& 0x3F3F3F3F3F3F3F3F#64 = 0#64) :
    agreeOutsidePadding rk rk' := by
  intro b hb h6
  have hmask : ∀ b < 64, b % 8 < 6 → (0x3F3F3F3F3F3F3F3F#64).getLsbD b = true := by decide
  have hbit := congrArg (BitVec.getLsbD · b) h
  rwa [BitVec.getLsbD_and, hmask b hb h6, BitVec.getLsbD_xor, Bool.and_true, BitVec.getLsbD_zero, bne_eq_false_iff_eq] at hbit

/-- R140. The slices that index the tables take bits 5:0 of each byte of the round key. -/
theorem slices_congr (low : U32) {rk rk' : U64} (h : agreeOutsidePadding rk rk') {p : Nat} (hp : p ≤ 24)
    (h8 : p % 8 = 0) :
    slice6 (expansion1 low rk) p = slice6 (expansion1 low rk') p ∧
      slice6 (expansion2 low rk) p = slice6 (expansion2 low rk') p := by
  refine ⟨BitVec.eq_of_getLsbD_eq fun j hj => ?_, BitVec.eq_of_getLsbD_eq fun j hj => ?_⟩
  · rw [slice6_expansion1_getLsbD low rk hp hj, slice6_expansion1_getLsbD low rk' hp hj, h _ (by omega) (by omega)]
  · rw [slice6_expansion2_getLsbD low rk hp hj, slice6_expansion2_getLsbD low rk' hp hj, h _ (by omega) (by omega)]

/-- Settles O41: no slice takes a padding bit. -/
theorem paddingBitsHaveNoEffect : Obligations.PaddingBitsHaveNoEffect := by
  unfold Obligations.PaddingBitsHaveNoEffect
  intro low rk rk' hmasked
  have h := agreeOutsidePadding_of_masked hmasked
  obtain ⟨h1, h2⟩ := slices_congr low h (p := 24) (by decide) rfl
  obtain ⟨h3, h4⟩ := slices_congr low h (p := 16) (by decide) rfl
  obtain ⟨h5, h6⟩ := slices_congr low h (p := 8) (by decide) rfl
  obtain ⟨h7, h8⟩ := slices_congr low h (p := 0) (by decide) rfl
  simp only [roundFunction, h1, h2, h3, h4, h5, h6, h7, h8]

/-! ## The round function is the classical one -/

/-- R12. A permutation of an OR. -/
theorem permute_or {W : Nat} (M : Nat) (T : List Nat) (v w : BitVec W) :
    permute M T (v ||| w) = permute M T v ||| permute M T w := by
  apply BitVec.eq_of_getLsbD_eq
  intro j hj
  simp only [BitVec.getLsbD_or, permute_getLsbD, pos, Bool.and_or_distrib_left]

/-- R107. The eight S-box outputs, each in its place. -/
theorem sBoxes_eq_or (v : BitVec 48) : sBoxes v =
    (sBoxAt sBox1 (v.extractLsb' 42 6)).setWidth 32 <<< 28 ||| (sBoxAt sBox2 (v.extractLsb' 36 6)).setWidth 32 <<< 24 |||
    (sBoxAt sBox3 (v.extractLsb' 30 6)).setWidth 32 <<< 20 ||| (sBoxAt sBox4 (v.extractLsb' 24 6)).setWidth 32 <<< 16 |||
    (sBoxAt sBox5 (v.extractLsb' 18 6)).setWidth 32 <<< 12 ||| (sBoxAt sBox6 (v.extractLsb' 12 6)).setWidth 32 <<< 8 |||
    (sBoxAt sBox7 (v.extractLsb' 6 6)).setWidth 32 <<< 4 ||| (sBoxAt sBox8 (v.extractLsb' 0 6)).setWidth 32 <<< 0 := by
  have h : sBoxes v = (sBoxes v).setWidth 32 <<< 0 := by rw [BitVec.setWidth_eq, BitVec.shiftLeft_zero]
  rw [h]
  simp only [sBoxes, setWidth_append_shiftLeft]

/-- R105, R112, R143. The 48 bits that the classical round function gives to the S-boxes. -/
def sBoxInput (low : U32) (cd : BitVec 56) : BitVec 48 := permute 48 expansionTable low ^^^ permute 48 pc2Table cd

/-- R143. `P(S(E(R) ^ K))`, the eight S-boxes one by one, by the fused tables. -/
theorem classicalRoundFunction_eq_or (low : U32) (cd : BitVec 56) :
    classicalRoundFunction low (permute 48 pc2Table cd) =
      spLookup sp1 ((sBoxInput low cd).extractLsb' 42 6) ||| spLookup sp2 ((sBoxInput low cd).extractLsb' 36 6) |||
      spLookup sp3 ((sBoxInput low cd).extractLsb' 30 6) ||| spLookup sp4 ((sBoxInput low cd).extractLsb' 24 6) |||
      spLookup sp5 ((sBoxInput low cd).extractLsb' 18 6) ||| spLookup sp6 ((sBoxInput low cd).extractLsb' 12 6) |||
      spLookup sp7 ((sBoxInput low cd).extractLsb' 6 6) ||| spLookup sp8 ((sBoxInput low cd).extractLsb' 0 6) := by
  have hentry := storedTablesComeFromTheClassicalOnes.1
  rw [classicalRoundFunction, ← sBoxInput, sBoxes_eq_or, roundPermutation]
  simp only [permute_or]
  simp only [hentry]
  rfl

/-- R105, R112. The bits that the S-boxes read, by the classical tables. -/
theorem sBoxInput_getLsbD (low : U32) (cd : BitVec 56) {m : Nat} (hm : m < 48) : (sBoxInput low cd).getLsbD m =
    (low.getLsbD (32 - expansionTable.reverse.getD m 0) ^^ pos cd (pc2Table.reverse.getD m 0)) := by
  have hE : expansionTable.length = 48 := rfl
  have hP : pc2Table.length = 48 := rfl
  simp only [sBoxInput, BitVec.getLsbD_xor, permute_getLsbD, hE, hP, hm, decide_true, Bool.true_and, pos]

/-- R106, R140. S-boxes 1, 3, 5 and 7 read what the first expansion value gives their tables. -/
theorem slice6_expansion1_pack (low : U32) (cd : BitVec 56) (k : Fin 4) :
    slice6 (expansion1 low (pack cd)) (24 - 8 * k.val) = (sBoxInput low cd).extractLsb' (42 - 12 * k.val) 6 := by
  have htables : ∀ (k : Fin 4) (j : Fin 6),
      32 - expansionTable.reverse.getD (42 - 12 * k.val + j.val) 0 = (24 - 8 * k.val + j.val + 3) % 32 ∧
      pc2Table.reverse.getD (42 - 12 * k.val + j.val) 0 =
        pc2vTable.getD (6 * (7 - (32 + (24 - 8 * k.val + j.val)) / 8) + (5 - (32 + (24 - 8 * k.val + j.val)) % 8)) 0 := by
    decide
  refine BitVec.eq_of_getLsbD_eq fun j hj => ?_
  obtain ⟨hexpansion, hpc2⟩ := htables k ⟨j, hj⟩
  have hpadding : (32 + (24 - 8 * k.val + j)) % 8 < 6 := by omega
  rw [slice6_expansion1_getLsbD low _ (by omega) hj, pack_getLsbD cd _ (by omega), BitVec.getLsbD_extractLsb',
    sBoxInput_getLsbD low cd (by omega), hexpansion, hpc2, decide_eq_true hpadding, decide_eq_true hj, Bool.true_and,
    Bool.true_and]

/-- R106, R140. S-boxes 2, 4, 6 and 8 read what the second expansion value gives their tables. -/
theorem slice6_expansion2_pack (low : U32) (cd : BitVec 56) (k : Fin 4) :
    slice6 (expansion2 low (pack cd)) (24 - 8 * k.val) = (sBoxInput low cd).extractLsb' (36 - 12 * k.val) 6 := by
  have htables : ∀ (k : Fin 4) (j : Fin 6),
      32 - expansionTable.reverse.getD (36 - 12 * k.val + j.val) 0 = (24 - 8 * k.val + j.val + 31) % 32 ∧
      pc2Table.reverse.getD (36 - 12 * k.val + j.val) 0 =
        pc2vTable.getD (6 * (7 - (24 - 8 * k.val + j.val) / 8) + (5 - (24 - 8 * k.val + j.val) % 8)) 0 := by
    decide
  refine BitVec.eq_of_getLsbD_eq fun j hj => ?_
  obtain ⟨hexpansion, hpc2⟩ := htables k ⟨j, hj⟩
  have hpadding : (24 - 8 * k.val + j) % 8 < 6 := by omega
  rw [slice6_expansion2_getLsbD low _ (by omega) hj, pack_getLsbD cd _ (by omega), BitVec.getLsbD_extractLsb',
    sBoxInput_getLsbD low cd (by omega), hexpansion, hpc2, decide_eq_true hpadding, decide_eq_true hj, Bool.true_and,
    Bool.true_and]

/-- R143 item 1. The round function under a packed subkey is the classical one. -/
theorem roundFunction_pack (low : U32) (cd : BitVec 56) :
    roundFunction low (pack cd) = classicalRoundFunction low (permute 48 pc2Table cd) := by
  obtain ⟨h1, h3, h5, h7⟩ := by simpa [Fin.forall_fin_succ] using slice6_expansion1_pack low cd
  obtain ⟨h2, h4, h6, h8⟩ := by simpa [Fin.forall_fin_succ] using slice6_expansion2_pack low cd
  rw [classicalRoundFunction_eq_or, roundFunction, h1, h2, h3, h4, h5, h6, h7, h8]
  ac_rfl

/-! ## The transform is DES -/

/-- R143. One classical round. -/
def classicalRound (h : Halves) (k : BitVec 48) : Halves :=
  { high := h.low, low := h.high ^^^ classicalRoundFunction h.low k }

/-- R142. The halves after the rounds, exchanged, joined and permuted. -/
def joinHalves (h : Halves) : U64 := inversePermutation (h.low ++ h.high)

theorem classicalDes_eq (ks : List (BitVec 48)) (x : U64) :
    classicalDes ks x = joinHalves (ks.foldl classicalRound (splitHalves (initialPermutation x))) := rfl

/-- R143 item 1. The transform under packed subkeys is DES under the classical subkeys. -/
theorem transform_of_toList_eq_map_pack (x : U64) {K : RoundKeySet} {cds : List (BitVec 56)}
    (h : K.toList = cds.map pack) : transform x K = classicalDes (cds.map (permute 48 pc2Table)) x := by
  have hrounds : cds.foldl (fun h cd => feistelRound h (pack cd)) (splitHalves (initialPermutation x)) =
      cds.foldl (fun h cd => classicalRound h (permute 48 pc2Table cd)) (splitHalves (initialPermutation x)) :=
    List.foldl_ext _ _ _ fun h cd _ => by rw [feistelRound, roundFunction_pack, classicalRound]
  rw [transform_eq, h, List.foldl_map, hrounds, classicalDes_eq, List.foldl_map, joinHalves]

/-- R104. `C || D` of round `i`. -/
def rotatedHalves (key : U64) (i : Nat) : BitVec 56 :=
  (keyC key).rotateLeft (rotTable.take (i + 1)).sum ++ (keyD key).rotateLeft (rotTable.take (i + 1)).sum

/-- R105. -/
theorem classicalSubkey_eq (key : U64) : classicalSubkey key = permute 48 pc2Table ∘ rotatedHalves key := rfl

/-- R106, R120. The forward schedule packs `C || D` of the sixteen rounds. -/
theorem scheduleF_toList (key : U64) : (scheduleF key).toList = ((List.range 16).map (rotatedHalves key)).map pack := by
  apply List.ext_getElem (by simp)
  intro i h1 h2
  rw [Vector.getElem_toList, scheduleF_getElem key i (by simpa using h1)]
  simp [rotatedHalves]

/-- R143 item 1. -/
theorem transform_scheduleF (x key : U64) : transform x (scheduleF key) = desEncrypt key x := by
  rw [transform_of_toList_eq_map_pack x (scheduleF_toList key), List.map_map, desEncrypt, classicalSubkey_eq]

/-- R143 item 1. -/
theorem transform_scheduleR (x key : U64) : transform x (scheduleR key) = desDecrypt key x := by
  have hkeys : (scheduleR key).toList = ((List.range 16).map (rotatedHalves key)).reverse.map pack := by
    rw [scheduleR_toList, scheduleF_toList, List.map_reverse]
  rw [transform_of_toList_eq_map_pack x hkeys, List.map_reverse, List.map_map, desDecrypt, classicalSubkey_eq]

/-- Settles O39: the fused tables read the bits the S-boxes read, so the rounds agree one by one. -/
theorem transformIsDes : Obligations.TransformIsDes := by
  unfold Obligations.TransformIsDes
  exact ⟨roundFunction_pack, fun x key => ⟨transform_scheduleF x key, transform_scheduleR x key⟩⟩

/-! ## Complements -/

/-- R12. A permutation of a complement, for a table of positions that exist. -/
theorem permute_not {W : Nat} (M : Nat) (T : List Nat) (hlen : T.length = M) (hT : ∀ p ∈ T, W - p < W) (v : BitVec W) :
    permute M T (~~~v) = ~~~(permute M T v) := by
  apply BitVec.eq_of_getLsbD_eq
  intro j hj
  have hjT : j < T.reverse.length := by rw [List.length_reverse, hlen]; exact hj
  have hpos : W - T.reverse.getD j 0 < W := by
    rw [List.getD_eq_getElem _ _ hjT]
    exact hT _ (List.mem_reverse.1 (List.getElem_mem hjT))
  simp only [BitVec.getLsbD_not, permute_getLsbD, pos, hlen, hj, hpos, decide_true, Bool.true_and]

/-- Rotating a half and complementing it commute. -/
theorem rotateLeft28_not (c : BitVec 28) (r : Nat) : (~~~c).rotateLeft r = ~~~(c.rotateLeft r) := by
  apply BitVec.eq_of_getLsbD_eq
  intro i hi
  have hmod : (i + (28 - r % 28)) % 28 < 28 := Nat.mod_lt _ (by decide)
  simp only [BitVec.getLsbD_not, rotateLeft28_getLsbD _ _ i hi, hi, hmod, decide_true, Bool.true_and]

/-- Bits taken from a complement, where they exist. -/
theorem extractLsb'_not {W : Nat} (v : BitVec W) {k n : Nat} (h : k + n ≤ W) :
    (~~~v).extractLsb' k n = ~~~(v.extractLsb' k n) := by
  apply BitVec.eq_of_getLsbD_eq
  intro i hi
  simp only [BitVec.getLsbD_not, BitVec.getLsbD_extractLsb', hi, show k + i < W by omega, decide_true, Bool.true_and]

/-- R143 item 4. Complementing the key complements every subkey. -/
theorem classicalSubkey_not (key : U64) (i : Nat) : classicalSubkey (~~~key) i = ~~~(classicalSubkey key i) := by
  have hpc1 : permute 56 pc1Table (~~~key) = ~~~(permute 56 pc1Table key) := permute_not 56 pc1Table rfl (by decide) key
  have hC : keyC (~~~key) = ~~~(keyC key) := by rw [keyC, hpc1, extractLsb'_not _ (by decide), keyC]
  have hD : keyD (~~~key) = ~~~(keyD key) := by rw [keyD, hpc1, extractLsb'_not _ (by decide), keyD]
  rw [classicalSubkey, hC, hD, rotateLeft28_not, rotateLeft28_not, ← BitVec.not_append,
    permute_not 48 pc2Table rfl (by decide), classicalSubkey]

/-- R143 item 4. Complementing both the half and the subkey leaves what the S-boxes read. -/
theorem classicalRoundFunction_not (r : U32) (k : BitVec 48) :
    classicalRoundFunction (~~~r) (~~~k) = classicalRoundFunction r k := by
  have hE : permute 48 expansionTable (~~~r) = ~~~(permute 48 expansionTable r) :=
    permute_not 48 expansionTable rfl (by decide) r
  rw [classicalRoundFunction, hE, ← BitVec.not_xor_left, BitVec.xor_comm, ← BitVec.not_xor_left, BitVec.not_not,
    BitVec.xor_comm, classicalRoundFunction]

/-- Both halves complemented. -/
def Halves.complement (h : Halves) : Halves := { high := ~~~h.high, low := ~~~h.low }

/-- R143 item 4. A round of complements is the complement of the round. -/
theorem classicalRound_complement (h : Halves) (k : BitVec 48) :
    classicalRound h.complement (~~~k) = (classicalRound h k).complement := by
  simp only [classicalRound, Halves.complement, classicalRoundFunction_not, BitVec.not_xor_left]

/-- R143 item 4. DES of complements is the complement of DES. -/
theorem classicalDes_not (ks : List (BitVec 48)) (x : U64) :
    classicalDes (ks.map (~~~ ·)) (~~~x) = ~~~(classicalDes ks x) := by
  have hsplit : splitHalves (initialPermutation (~~~x)) = (splitHalves (initialPermutation x)).complement := by
    rw [initialPermutation, permute_not 64 ipTable rfl (by decide), ← initialPermutation, splitHalves,
      extractLsb'_not _ (by decide), extractLsb'_not _ (by decide), splitHalves, Halves.complement]
  have hjoin : ∀ h : Halves, joinHalves h.complement = ~~~(joinHalves h) := fun h => by
    rw [joinHalves, Halves.complement, ← BitVec.not_append, inversePermutation,
      permute_not 64 ipInvTable rfl (by decide), joinHalves, inversePermutation]
  rw [classicalDes_eq, classicalDes_eq, hsplit, List.foldl_map, ← hjoin]
  exact congrArg joinHalves (List.foldl_hom Halves.complement classicalRound_complement)

/-- R143 item 4. -/
theorem transform_not (x key : U64) : transform (~~~x) (scheduleF (~~~key)) = ~~~(transform x (scheduleF key)) := by
  have hkeys : (List.range 16).map (classicalSubkey (~~~key)) = ((List.range 16).map (classicalSubkey key)).map (~~~ ·) := by
    rw [List.map_map]
    exact List.map_congr_left fun i _ => classicalSubkey_not key i
  rw [transform_scheduleF, transform_scheduleF, desEncrypt, hkeys, classicalDes_not, desEncrypt]

/-- Settles O40: reversed round keys undo a transform, and the all-zero set is its own reversal; the complement law is that of
classical DES. -/
theorem transformLaws : Obligations.TransformLaws := by
  unfold Obligations.TransformLaws
  refine ⟨fun x key => ⟨transform_scheduleR_transform_scheduleF x key, transform_scheduleF_transform_scheduleR x key⟩,
    fun x => transform_reverse x _ _ ?_, transform_not⟩
  rw [Vector.toList_replicate, List.reverse_replicate]

/-! ## XFORM and INVOKE -/

/-- Settles O42: XFORM is one transform under the stored set. -/
theorem xformResult : Obligations.XformResult := by
  unfold Obligations.XformResult
  intro set s hset
  refine ⟨(s.writeBlk (transform s.blk s.rks[set.toNat])).complete .none, ?_, rfl, fun key hkey => ?_, fun _ => rfl⟩
  · simp only [exec, execXform, index3?_of_lt set hset]
    rfl
  · exact (congrArg (transform s.blk) hkey).trans (transform_scheduleF s.blk key)

/-- R162. INVOKE under a legal key count. -/
theorem exec_invoke_of_keyCount {s : State} {n : KeyCount} (h : keyCount? s.kcnt = some n) :
    exec .invoke s = .next { completed s .none with blk := invoke s.blk (storedSchedules s.rks n) } := by
  simp only [exec, execInvoke, h]
  rfl

/-- Settles O43: `invoke` under the stored sets is the stages spelled out. -/
theorem invokeResult : Obligations.InvokeResult := by
  unfold Obligations.InvokeResult
  refine fun s => ⟨fun hk => ?_, fun hk => ?_, fun hk => ?_, fun hcount => ?_, fun t ht a => ?_⟩
  · exact exec_invoke_of_keyCount (n := .oneKey) (by rw [hk, keyCount?_one])
  · exact exec_invoke_of_keyCount (n := .twoKey) (by rw [hk, keyCount?_two])
  · exact exec_invoke_of_keyCount (n := .threeKey) (by rw [hk, keyCount?_three])
  · simp only [exec, execInvoke, (keyCount?_eq_none s.kcnt).2 hcount]
    rfl
  · rcases execInvoke_cases s with ⟨n, -, h⟩ | ⟨-, h⟩ <;> cases ht.symm.trans h <;> rfl

end Sys2Proof.Machine
end

section
/-! Proofs of the statements on the CBC drivers (44_cbc.md). -/

namespace Sys2Proof.Machine

open Sys2Proof.Statements

/-! ## Blocks of a byte sequence -/

/-- R53. Full block `b` of a byte sequence. -/
def blockOf (bs : List Byte) (b : Nat) : U64 := load64 ((bs.drop (8 * b)).take 8)

/-- The bytes of `n` blocks in order. -/
def joined (out : Nat → U64) (n : Nat) : List Byte := (List.range n).flatMap fun b => store64 (out b)

theorem joined_succ (out : Nat → U64) (n : Nat) : joined out (n + 1) = joined out n ++ store64 (out n) := by
  simp [joined, List.range_succ]

theorem joined_succ' (out : Nat → U64) (n : Nat) :
    joined out (n + 1) = store64 (out 0) ++ joined (fun b => out (b + 1)) n := by
  simp [joined, List.range_succ_eq_map, List.flatMap_map]

@[simp] theorem length_joined (out : Nat → U64) (n : Nat) : (joined out n).length = 8 * n := by
  induction n with
  | zero => rfl
  | succ n ih => rw [joined_succ, List.length_append, ih, length_store64, Nat.mul_succ]

theorem joined_congr {out out' : Nat → U64} {n : Nat} (h : ∀ b, b < n → out b = out' b) : joined out n = joined out' n := by
  induction n with
  | zero => rfl
  | succ n ih => rw [joined_succ, joined_succ, ih fun b hb => h b (by omega), h n (by omega)]

/-- The bytes of one of `n` joined blocks. -/
theorem joined_drop_take (out : Nat → U64) {n b : Nat} (hb : b < n) (tail : List Byte) :
    ((joined out n ++ tail).drop (8 * b)).take 8 = store64 (out b) := by
  induction n generalizing tail with
  | zero => omega
  | succ n ih =>
    rw [joined_succ, List.append_assoc]
    rcases Nat.lt_succ_iff_lt_or_eq.1 hb with hlt | rfl
    · exact ih hlt _
    · rw [List.drop_append, List.drop_eq_nil_of_le (by simp), List.nil_append, length_joined, Nat.sub_self, List.drop_zero,
        take_store64]

/-- The blocks of a byte sequence that was joined from blocks. -/
theorem blockOf_joined (out : Nat → U64) {n b : Nat} (hb : b < n) (tail : List Byte) :
    blockOf (joined out n ++ tail) b = out b := by
  rw [blockOf, joined_drop_take out hb, load64_store64]

/-- What follows the joined blocks. -/
theorem drop_joined (out : Nat → U64) (n : Nat) (tail : List Byte) : (joined out n ++ tail).drop (8 * n) = tail := by
  rw [List.drop_append, List.drop_eq_nil_of_le (by simp), length_joined, Nat.sub_self, List.nil_append, List.drop_zero]

/-- A block of the sequence less its first block. -/
theorem blockOf_drop (bs : List Byte) (b : Nat) : blockOf (bs.drop 8) b = blockOf bs (b + 1) := by
  rw [blockOf, blockOf, List.drop_drop, show 8 + 8 * b = 8 * (b + 1) by omega]

/-- A block is known by its bytes. -/
theorem blockOf_congr {bs bs' : List Byte} {b : Nat} (h : ∀ k, k / 8 = b → bs'[k]? = bs[k]?) :
    blockOf bs' b = blockOf bs b := by
  refine congrArg load64 (List.ext_getElem? fun i => ?_)
  rw [List.getElem?_take, List.getElem?_take, List.getElem?_drop, List.getElem?_drop]
  split
  · exact h _ (by omega)
  · rfl

/-- The bytes of a full block are known by the block. -/
theorem getElem?_eq_of_blockOf_eq {bs bs' : List Byte} {b : Nat} (hb : b < bs.length / 8) (hb' : b < bs'.length / 8)
    (h : blockOf bs' b = blockOf bs b) : ∀ k, k / 8 = b → bs'[k]? = bs[k]? := by
  have hbytes : (bs'.drop (8 * b)).take 8 = (bs.drop (8 * b)).take 8 :=
    load64_injective _ _ (by simp; omega) (by simp; omega) h
  intro k hk
  have hbyte := congrArg (·[k - 8 * b]?) hbytes
  simpa only [List.getElem?_take, List.getElem?_drop, show k - 8 * b < 8 by omega, if_true,
    show 8 * b + (k - 8 * b) = k by omega] using hbyte

/-! ## The drivers, block by block -/

/-- R175. The chaining value before block `b` of an encryption: IV, and then each block of the output. -/
def chainAt (S : Schedules) (iv : U64) (pt : List Byte) : Nat → U64
  | 0 => iv
  | b + 1 => invoke (blockOf pt b ^^^ chainAt S iv pt b) S

/-- R175. The chaining values from the second block on are those of an encryption that begins there. -/
theorem chainAt_drop (S : Schedules) (iv : U64) (pt : List Byte) (b : Nat) :
    chainAt S (chainAt S iv pt 1) (pt.drop 8) b = chainAt S iv pt (b + 1) := by
  induction b with
  | zero => rfl
  | succ b ih => rw [chainAt, ih, blockOf_drop, ← chainAt]

/-- R175. A chaining value depends on the blocks before it only. -/
theorem chainAt_congr (S : Schedules) (iv : U64) {pt pt' : List Byte} {b : Nat} (h : ∀ k, k < 8 * b → pt'[k]? = pt[k]?) :
    chainAt S iv pt' b = chainAt S iv pt b := by
  induction b with
  | zero => rfl
  | succ b ih =>
    rw [chainAt, chainAt, ih fun k hk => h k (by omega), blockOf_congr fun k hk => h k (by omega)]

/-- R175, R177. The encryption loop: its output blocks are the chaining values, and the last one makes the keystream. -/
theorem encryptBlocks_eq (S : Schedules) (n : Nat) (iv : U64) (pt : List Byte) :
    encryptBlocks S n iv pt =
      { bytes := joined (fun b => chainAt S iv pt (b + 1)) n ++ xorTail (invoke (chainAt S iv pt n) S) (pt.drop (8 * n))
        chain := chainAt S iv pt n } := by
  induction n generalizing iv pt with
  | zero => rfl
  | succ n ih =>
    have hfirst : invoke (load64 (pt.take 8) ^^^ iv) S = chainAt S iv pt 1 := rfl
    rw [encryptBlocks_succ, hfirst, ih, joined_succ']
    simp only [chainAt_drop, List.append_assoc, List.drop_drop, show 8 + 8 * n = 8 * (n + 1) by omega]

/-- R180. Block `b` of a decryption: the invocation of the input block, XOR the input block before it, or IV. -/
def plainAt (SR : Schedules) (iv : U64) (ct : List Byte) (b : Nat) : U64 :=
  invoke (blockOf ct b) SR ^^^ previousBlock iv (blockOf ct) b

/-- R180. The previous block from the second block on. -/
theorem previousBlock_drop (iv : U64) (ct : List Byte) (b : Nat) :
    previousBlock (blockOf ct 0) (blockOf (ct.drop 8)) b = previousBlock iv (blockOf ct) (b + 1) := by
  cases b with
  | zero => rfl
  | succ b => exact blockOf_drop ct b

/-- R180, R182. The decryption loop: each block from two of the input, and the last input block makes the keystream. -/
theorem decryptBlocks_eq (SR SF : Schedules) (n : Nat) (iv : U64) (ct : List Byte) :
    decryptBlocks SR SF n iv ct =
      { bytes := joined (plainAt SR iv ct) n ++ xorTail (invoke (previousBlock iv (blockOf ct) n) SF) (ct.drop (8 * n))
        chain := previousBlock iv (blockOf ct) n } := by
  induction n generalizing iv ct with
  | zero => rfl
  | succ n ih =>
    have hfirst : load64 (ct.take 8) = blockOf ct 0 := rfl
    have hrest : plainAt SR (blockOf ct 0) (ct.drop 8) = fun b => plainAt SR iv ct (b + 1) := by
      funext b
      rw [plainAt, previousBlock_drop iv, blockOf_drop, plainAt]
    rw [decryptBlocks_succ, hfirst, ih, joined_succ', hrest, previousBlock_drop iv]
    simp only [plainAt, List.append_assoc, List.drop_drop, show 8 + 8 * n = 8 * (n + 1) by omega]
    rfl

/-! ## The round trip -/

/-- R185 item 2. Decryption under schedules that undo those of the encryption. -/
theorem decryptBlocks_encryptBlocks {S SR : Schedules} (hundo : ∀ x, invoke (invoke x S) SR = x) (n : Nat) (chain : U64)
    (pt : List Byte) (h : pt.length / 8 = n) :
    decryptBlocks SR S n chain (encryptBlocks S n chain pt).bytes =
      { bytes := pt, chain := (encryptBlocks S n chain pt).chain } := by
  induction n generalizing chain pt with
  | zero => simp only [encryptBlocks, decryptBlocks, xorTail_xorTail _ pt (by omega)]
  | succ n ih =>
    have hfirst : (pt.take 8).length = 8 := by simp; omega
    have hrest := ih (invoke (load64 (pt.take 8) ^^^ chain) S) (pt.drop 8) (by simp; omega)
    simp only [encryptBlocks_succ, decryptBlocks_succ, take_store64, drop_store64, load64_store64, hrest, hundo,
      BitVec.xor_assoc, BitVec.xor_self, BitVec.xor_zero, store64_load64 _ hfirst, List.take_append_drop]

/-- R185 item 2. The decryption driver undoes the encryption driver. -/
theorem cbcDecrypt_cbcEncrypt (K : Vector U64 3) (n : KeyCount) (iv : U64) (p : List Byte) :
    cbcDecrypt K n iv (cbcEncrypt K n iv p).bytes = { bytes := p, chain := (cbcEncrypt K n iv p).chain } := by
  rw [cbcDecrypt, length_cbcEncrypt]
  exact decryptBlocks_encryptBlocks (fun x => invoke_combineR_invoke_combineF x K n) _ iv p rfl

/-- Settles O47: the reverse-biased chain undoes the forward-biased one, block by block, and the tail is XORed twice. -/
theorem cbcRoundTrip : Obligations.CbcRoundTrip := by
  unfold Obligations.CbcRoundTrip
  intro K n iv p
  rw [cbcDecrypt_cbcEncrypt]
  exact ⟨length_cbcEncrypt K n iv p, length_cbcDecrypt K n iv p, rfl, rfl⟩

/-! ## Which input bytes an output byte depends on -/

/-- R160, R163. No two blocks have one invocation under a forward-biased combination. -/
theorem invoke_combineF_injective (K : Vector U64 3) (n : KeyCount) {x y : U64}
    (h : invoke x (combineF K n) = invoke y (combineF K n)) : x = y := by
  rw [← invoke_combineR_invoke_combineF x K n, h, invoke_combineR_invoke_combineF]

section
variable (K : Vector U64 3) (n : KeyCount) (iv : U64)

/-- R175. Block `b` of the ciphertext. -/
theorem cbcEncrypt_drop_take (p : List Byte) {b : Nat} (hb : b < p.length / 8) :
    ((cbcEncrypt K n iv p).bytes.drop (8 * b)).take 8 = store64 (chainAt (combineF K n) iv p (b + 1)) := by
  rw [cbcEncrypt, encryptBlocks_eq]
  exact joined_drop_take _ hb _

/-- R175. Byte `k` of the ciphertext, in its full blocks. -/
theorem cbcEncrypt_getElem? (p : List Byte) {k : Nat} (hk : k / 8 < p.length / 8) :
    (cbcEncrypt K n iv p).bytes[k]? = (store64 (chainAt (combineF K n) iv p (k / 8 + 1)))[k % 8]? := by
  rw [← cbcEncrypt_drop_take K n iv p hk, List.getElem?_take, List.getElem?_drop, if_pos (by omega),
    show 8 * (k / 8) + k % 8 = k by omega]

/-- R185 item 3. Ciphertext blocks differ where the chaining values after them do. -/
theorem cbcEncrypt_block_ne {p p' : List Byte} {b : Nat} (hb : b < p.length / 8) (hb' : b < p'.length / 8)
    (h : chainAt (combineF K n) iv p' (b + 1) ≠ chainAt (combineF K n) iv p (b + 1)) :
    ((cbcEncrypt K n iv p').bytes.drop (8 * b)).take 8 ≠ ((cbcEncrypt K n iv p).bytes.drop (8 * b)).take 8 := by
  rw [cbcEncrypt_drop_take K n iv p hb, cbcEncrypt_drop_take K n iv p' hb']
  exact fun heq => h (store64_injective _ _ heq)

/-- R185 item 3. After equal chaining values, different plaintext blocks. -/
theorem chainAt_succ_ne_of_blockOf_ne {p p' : List Byte} {b : Nat}
    (hchain : chainAt (combineF K n) iv p' b = chainAt (combineF K n) iv p b) (h : blockOf p' b ≠ blockOf p b) :
    chainAt (combineF K n) iv p' (b + 1) ≠ chainAt (combineF K n) iv p (b + 1) := by
  intro heq
  have hxor := invoke_combineF_injective K n heq
  rw [hchain] at hxor
  exact h ((BitVec.xor_left_inj _).1 hxor)

/-- R185 item 3. After different chaining values, equal plaintext blocks. -/
theorem chainAt_succ_ne_of_chainAt_ne {p p' : List Byte} {b : Nat}
    (hblock : blockOf p' b = blockOf p b) (h : chainAt (combineF K n) iv p' b ≠ chainAt (combineF K n) iv p b) :
    chainAt (combineF K n) iv p' (b + 1) ≠ chainAt (combineF K n) iv p (b + 1) := by
  intro heq
  have hxor := invoke_combineF_injective K n heq
  rw [hblock] at hxor
  exact h ((BitVec.xor_right_inj _).1 hxor)

end

/-- Settles O50: equal prefixes give equal chaining values, and a difference in one block is carried on by the invocation,
which no two blocks share. -/
theorem chainingDivergence : Obligations.ChainingDivergence := by
  unfold Obligations.ChainingDivergence
  intro K n iv p p' b hbefore
  have hchain : chainAt (combineF K n) iv p' b = chainAt (combineF K n) iv p b := chainAt_congr _ _ hbefore
  refine ⟨fun hb hb' k hk => ?_, fun hb hb' ⟨k, hk, hne⟩ => ?_, fun hlen hb hrest hne c hbc hc => ?_⟩
  · rw [cbcEncrypt_getElem? K n iv p' (by omega), cbcEncrypt_getElem? K n iv p (by omega),
      chainAt_congr _ _ fun j hj => hbefore j (by omega)]
  · refine cbcEncrypt_block_ne K n iv hb hb' (chainAt_succ_ne_of_blockOf_ne K n iv hchain fun heq => hne ?_)
    exact getElem?_eq_of_blockOf_eq hb hb' heq k hk
  · have hoff : ∀ k, k / 8 ≠ b → p'[k]? = p[k]? := fun k hk => by
      rcases Nat.lt_or_ge k p.length with hin | hout
      · exact hrest k hin hk
      · rw [List.getElem?_eq_none hout, List.getElem?_eq_none (hlen ▸ hout)]
    have hblock : blockOf p' b ≠ blockOf p b := fun heq => hne <| List.ext_getElem? fun k => by
      by_cases hk : k / 8 = b
      · exact getElem?_eq_of_blockOf_eq hb (by omega) heq k hk
      · exact hoff k hk
    refine cbcEncrypt_block_ne K n iv hc (by omega) ?_
    clear hc
    induction c, hbc using Nat.le_induction with
    | base => exact chainAt_succ_ne_of_blockOf_ne K n iv hchain hblock
    | succ c hbc ih =>
      exact chainAt_succ_ne_of_chainAt_ne K n iv (blockOf_congr fun k hk => hoff k (by omega)) ih

/-- Settles O51: chaining values and blocks do not see beyond the full blocks. -/
theorem fullBlocksDoNotDependOnTheTail : Obligations.FullBlocksDoNotDependOnTheTail := by
  unfold Obligations.FullBlocksDoNotDependOnTheTail
  intro K n iv p hp
  have hblocks : ∀ q : List Byte, q.length < 8 → (p ++ q).length / 8 = p.length / 8 := fun q hq => by
    rw [List.length_append]; omega
  have htail : ∀ q : List Byte, (p ++ q).drop (8 * (p.length / 8)) = q := fun q => by
    rw [show 8 * (p.length / 8) = p.length by omega, List.drop_left]
  have hsame : ∀ (q : List Byte) k, k < p.length → (p ++ q)[k]? = p[k]? := fun q k hk => List.getElem?_append_left hk
  refine ⟨⟨joined (fun b => chainAt (combineF K n) iv p (b + 1)) (p.length / 8),
      invoke (chainAt (combineF K n) iv p (p.length / 8)) (combineF K n), by simp; omega, fun q hq => ?_⟩,
    ⟨joined (plainAt (combineR K n) iv p) (p.length / 8),
      invoke (previousBlock iv (blockOf p) (p.length / 8)) (combineF K n), by simp; omega, fun q hq => ?_⟩⟩
  · have hchain : ∀ b, b ≤ p.length / 8 → chainAt (combineF K n) iv (p ++ q) b = chainAt (combineF K n) iv p b :=
      fun b hb => chainAt_congr _ _ fun k hk => hsame q k (by omega)
    rw [cbcEncrypt, hblocks q hq, encryptBlocks_eq, htail, hchain _ le_rfl, xorTail]
    exact congrArg (· ++ _) (joined_congr fun b hb => hchain (b + 1) hb)
  · have hblock : ∀ b, b < p.length / 8 → blockOf (p ++ q) b = blockOf p b :=
      fun b hb => blockOf_congr fun k hk => hsame q k (by omega)
    have hprevious : ∀ b, b ≤ p.length / 8 → previousBlock iv (blockOf (p ++ q)) b = previousBlock iv (blockOf p) b := by
      intro b hb
      cases b with
      | zero => rfl
      | succ b => exact hblock b hb
    rw [cbcDecrypt, hblocks q hq, decryptBlocks_eq, htail, hprevious _ le_rfl, xorTail]
    refine congrArg (· ++ _) (joined_congr fun b hb => ?_)
    rw [plainAt, plainAt, hblock b hb, hprevious b (by omega)]

end Sys2Proof.Machine
end

section
/-! Proofs of the statements on the CBC commands (44_cbc.md, 41_key_schedule.md section 1). -/

namespace Sys2Proof.Machine

open Sys2Proof.Statements

/-! ## The combinations a legal KCNT selects -/

/-- R124. -/
theorem forwardBiased_eq {s : State} {n : KeyCount} (h : keyCount? s.kcnt = some n) :
    forwardBiased s = combineF s.keys n := by
  obtain ⟨hk, rfl⟩ | ⟨hk, rfl⟩ | ⟨hk, rfl⟩ := keyCount?_eq_some s.kcnt n h <;> rw [forwardBiased, hk] <;> rfl

/-- R126. -/
theorem reverseBiased_eq {s : State} {n : KeyCount} (h : keyCount? s.kcnt = some n) :
    reverseBiased s = combineR s.keys n := by
  obtain ⟨hk, rfl⟩ | ⟨hk, rfl⟩ | ⟨hk, rfl⟩ := keyCount?_eq_some s.kcnt n h <;> rw [reverseBiased, hk] <;> rfl

/-! ## Buffers of DMEM, block by block -/

/-- R53. A block of a buffer of DMEM. -/
theorem blockAt_eq_blockOf (s : State) (a : Nat) {n b : Nat} (hb : b < n / 8) :
    blockAt s (a + 8 * b) = blockOf (s.dmemSlice a n) b := by
  rw [blockAt, blockOf, State.dmemSlice_drop, State.dmemSlice_take _ _ _ _ (by omega)]

/-- R175, R177, R180, R182. A buffer made of blocks and of an input buffer's tail under a keystream block: its blocks, and
its tail byte by byte. -/
theorem buffer_of_joined {s t : State} {src dst len : Nat} {out : Nat → U64} {ks : U64}
    (h : t.dmemSlice dst len = joined out (len / 8) ++ xorTail ks ((s.dmemSlice src len).drop (8 * (len / 8)))) :
    (∀ b, b < len / 8 → blockAt t (dst + 8 * b) = out b) ∧
    ∀ i, i < len % 8 → t.dmemByte (dst + 8 * (len / 8) + i) =
      s.dmemByte (src + 8 * (len / 8) + i) ^^^ ks.extractLsb' (56 - 8 * i) 8 := by
  refine ⟨fun b hb => by rw [blockAt_eq_blockOf t dst hb, h, blockOf_joined out hb], fun i hi => ?_⟩
  have htail := congrArg (List.drop (8 * (len / 8))) h
  rw [drop_joined, State.dmemSlice_drop, State.dmemSlice_drop] at htail
  have hbyte := List.getElem_of_eq htail (i := i) (by simp; omega)
  rwa [xorTail_getElem _ _ _ (by simp; omega) (by simp; omega), State.getElem_dmemSlice, State.getElem_dmemSlice] at hbyte

/-- R178, R183. A legal CBC command: the driver's result for the input buffer, at DST and in CHAIN; nothing else changes. -/
theorem State.runCbc_frame_of_legal {s : State} {driver : Vector U64 3 → KeyCount → U64 → List Byte → CbcResult}
    (hlen : ∀ K n iv b, (driver K n iv b).bytes.length = b.length) (h : CbcLegal s) :
    ∃ n t, keyCount? s.kcnt = some n ∧ s.runCbc driver = .next t ∧
      t.dmemSlice s.dst.toNat s.len.toNat = (driver s.keys n s.iv (s.dmemSlice s.src.toNat s.len.toNat)).bytes ∧
      t.chain = (driver s.keys n s.iv (s.dmemSlice s.src.toNat s.len.toNat)).chain ∧
      (∀ a, a < s.dst.toNat ∨ s.dst.toNat + s.len.toNat ≤ a → t.dmemByte a = s.dmemByte a) ∧
      t = { completed s .none with dmem := t.dmem, chain := t.chain } := by
  obtain ⟨n, hn, hchecks⟩ := cbcOperands_of_legal h
  obtain ⟨n', t, hn', hrun, hbytes, hchain⟩ := State.runCbc_of_legal hlen h
  cases hn.symm.trans hn'
  have hrun' := State.runCbc_of_ok hlen hchecks
  cases hrun.symm.trans hrun'
  refine ⟨n, _, hn, hrun, hbytes, hchain, fun a ha => s.dmemByte_storeBytes_outside s.dst.toNat _ a ?_, rfl⟩
  rwa [hlen, State.length_dmemSlice]

/-- Settles O45: the output blocks are the chaining values of the encryption. -/
theorem cbcEncResult : Obligations.CbcEncResult := by
  unfold Obligations.CbcEncResult
  intro s hs
  obtain ⟨n, t, hn, hrun, hbytes, hchain, houtside, hframe⟩ := State.runCbc_frame_of_legal length_cbcEncrypt hs
  rw [cbcEncrypt, State.length_dmemSlice, encryptBlocks_eq] at hbytes hchain
  dsimp only at hbytes hchain
  obtain ⟨hblocks, htail⟩ := buffer_of_joined hbytes
  rw [← hchain] at htail
  have hprevious : ∀ b, b ≤ s.len.toNat / 8 → previousBlock s.iv (fun b => blockAt t (s.dst.toNat + 8 * b)) b =
      chainAt (combineF s.keys n) s.iv (s.dmemSlice s.src.toNat s.len.toNat) b := by
    intro b hb
    cases b with
    | zero => rfl
    | succ b => exact hblocks b hb
  rw [forwardBiased_eq hn]
  refine ⟨t, hrun, fun b hb => ?_, ?_, htail, houtside, hframe⟩
  · rw [hblocks b hb, hprevious b (by omega), blockAt_eq_blockOf s _ hb, chainAt]
  · rw [hchain, hprevious _ le_rfl]

/-- Settles O46: each output block is made of two input blocks, and the last one makes the keystream. -/
theorem cbcDecResult : Obligations.CbcDecResult := by
  unfold Obligations.CbcDecResult
  intro s hs
  obtain ⟨n, t, hn, hrun, hbytes, hchain, houtside, hframe⟩ := State.runCbc_frame_of_legal length_cbcDecrypt hs
  rw [cbcDecrypt, State.length_dmemSlice, decryptBlocks_eq] at hbytes hchain
  dsimp only at hbytes hchain
  obtain ⟨hblocks, htail⟩ := buffer_of_joined hbytes
  rw [← hchain] at htail
  have hprevious : ∀ b, b ≤ s.len.toNat / 8 → previousBlock s.iv (fun b => blockAt s (s.src.toNat + 8 * b)) b =
      previousBlock s.iv (blockOf (s.dmemSlice s.src.toNat s.len.toNat)) b := by
    intro b hb
    cases b with
    | zero => rfl
    | succ b => exact blockAt_eq_blockOf s _ hb
  rw [forwardBiased_eq hn, reverseBiased_eq hn]
  refine ⟨t, hrun, fun b hb => ?_, ?_, htail, houtside, hframe⟩
  · rw [hblocks b hb, hprevious b (by omega), blockAt_eq_blockOf s _ hb, plainAt]
  · rw [hchain, hprevious _ le_rfl]

/-! ## Buffers of fewer than eight bytes -/

/-- R182, R183. Without a full block, both drivers XOR the tail with the invocation of IV. -/
theorem cbcDecrypt_of_short (K : Vector U64 3) (n : KeyCount) (iv : U64) {p : List Byte} (h : p.length < 8) :
    cbcDecrypt K n iv p = cbcEncrypt K n iv p ∧ (cbcEncrypt K n iv p).chain = iv := by
  rw [cbcDecrypt, cbcEncrypt, Nat.div_eq_of_lt h]
  exact ⟨rfl, rfl⟩

/-- Settles O52: with no full block, both drivers make the same of the buffer. -/
theorem shortBuffersDecryptAsTheyEncrypt : Obligations.ShortBuffersDecryptAsTheyEncrypt := by
  unfold Obligations.ShortBuffersDecryptAsTheyEncrypt
  intro s hs hshort
  obtain ⟨n, -, hchecks⟩ := cbcOperands_of_legal hs
  obtain ⟨hsame, hchain⟩ := cbcDecrypt_of_short s.keys n s.iv
    (p := s.dmemSlice s.src.toNat s.len.toNat) (by rwa [State.length_dmemSlice])
  have hdec := State.runCbc_of_ok length_cbcDecrypt hchecks
  rw [hsame] at hdec
  exact ⟨_, State.runCbc_of_ok length_cbcEncrypt hchecks, hdec, hchain⟩

/-! ## The round trip on the machine -/

/-- R171. The conditions under which a CBC command executes normally are those under which it reports no error. -/
theorem cbcLegal_of_cbcError {s : State} (h : cbcError s = .none) : CbcLegal s := by
  obtain ⟨hlength, hkeyCount, hrange, hoverlap, -⟩ := cbcError_precedence s
  have hlen : ¬ (s.len = 0#32 ∨ s.len.msb = true) := fun hbad => nomatch h.symm.trans (hlength hbad)
  have hcount : legalCount s.kcnt := by
    by_contra hbad
    exact nomatch h.symm.trans (hkeyCount hlen hbad)
  have hin : ¬ outOfRange s := fun hbad => nomatch h.symm.trans (hrange hlen hcount hbad)
  exact {
    positive := fun hbad => hlen (.inl hbad)
    signed := Bool.eq_false_of_not_eq_true fun hbad => hlen (.inr hbad)
    count := hcount
    range := hin
    overlap := fun hbad => nomatch h.symm.trans (hoverlap hlen hcount hin hbad) }

/-- R173. The checks treat SRC and DST alike. -/
theorem cbcLegal_exchanged {s t : State} (h : CbcLegal s) (hparams : t.params = s.params) (hlen : t.len = s.len)
    (hkcnt : t.kcnt = s.kcnt) (hsrc : t.src = s.dst) (hdst : t.dst = s.src) : CbcLegal t where
  positive := hlen ▸ h.positive
  signed := hlen ▸ h.signed
  count := hkcnt ▸ h.count
  range := by
    have hrange := h.range
    unfold outOfRange at hrange ⊢
    rw [hparams, hlen, hsrc, hdst]
    exact fun hbad => hrange hbad.symm
  overlap := by
    have hoverlap := h.overlap
    unfold buffersOverlap at hoverlap ⊢
    rw [hlen, hsrc, hdst]
    exact fun ⟨hne, h1, h2⟩ => hoverlap ⟨hne.symm, h2, h1⟩

/-- R185 item 2. A legal CBC_DEC over a ciphertext restores the plaintext, and ends with the chaining value of its
encryption. -/
theorem exec_cbcDec_of_ciphertext {s : State} (hs : CbcLegal s) {n : KeyCount} (hn : keyCount? s.kcnt = some n)
    {p : List Byte} (hinput : s.dmemSlice s.src.toNat s.len.toNat = (cbcEncrypt s.keys n s.iv p).bytes) :
    ∃ u, exec .cbcDec s = .next u ∧ u.status.err = .none ∧ u.dmemSlice s.dst.toNat s.len.toNat = p ∧
      u.chain = (cbcEncrypt s.keys n s.iv p).chain := by
  obtain ⟨n', u, hn', hrun, hbytes, hchain, -, hframe⟩ := State.runCbc_frame_of_legal length_cbcDecrypt hs
  cases hn.symm.trans hn'
  rw [hinput, cbcDecrypt_cbcEncrypt] at hbytes hchain
  exact ⟨u, hrun, by rw [hframe]; rfl, hbytes, hchain⟩

/-- Settles O48: the buffer at DST is a ciphertext of the input, and the checks treat SRC and DST alike. -/
theorem encryptThenDecryptRestoresDmem : Obligations.EncryptThenDecryptRestoresDmem := by
  unfold Obligations.EncryptThenDecryptRestoresDmem
  intro s t ht herr
  have hs : CbcLegal s := by
    obtain ⟨u, hu, -⟩ := exec_endsWith .cbcEnc s
    cases ht.symm.trans hu
    exact cbcLegal_of_cbcError herr
  obtain ⟨n, t', hn, hrun, hbytes, hchain, -, hframe⟩ := State.runCbc_frame_of_legal length_cbcEncrypt hs
  cases ht.symm.trans hrun
  obtain ⟨dmem, chain, rfl⟩ : ∃ m c, t = { completed s .none with dmem := m, chain := c } := ⟨_, _, hframe⟩
  have hlegal : CbcLegal { completed s .none with dmem := dmem, chain := chain, src := s.dst, dst := s.src } :=
    cbcLegal_exchanged hs rfl rfl rfl rfl rfl
  obtain ⟨u, hu, huerr, hubytes, huchain⟩ := exec_cbcDec_of_ciphertext hlegal hn hbytes
  exact ⟨u, hu, huerr, (State.dmemSlice_eq_iff _ _ _ _ _).1 hubytes, huchain.trans hchain.symm⟩

/-! ## The key registers a command reads -/

/-- R23, R124, R126. A combination uses the keys below the count. -/
theorem combine_congr_of_count {kcnt : U32} {n : KeyCount} (hn : keyCount? kcnt = some n) {K K' : Vector U64 3}
    (h : ∀ k : Fin 3, k.val < kcnt.toNat → K[k] = K'[k]) : combineF K n = combineF K' n ∧ combineR K n = combineR K' n := by
  obtain ⟨rfl, rfl⟩ | ⟨rfl, rfl⟩ | ⟨rfl, rfl⟩ := keyCount?_eq_some kcnt n hn
  · have h0 : K[0] = K'[0] := h 0 (by decide)
    simp only [combineF, combineR, h0, and_self]
  · have h0 : K[0] = K'[0] := h 0 (by decide)
    have h1 : K[1] = K'[1] := h 1 (by decide)
    simp only [combineF, combineR, h0, h1, and_self]
  · have h0 : K[0] = K'[0] := h 0 (by decide)
    have h1 : K[1] = K'[1] := h 1 (by decide)
    have h2 : K[2] = K'[2] := h 2 (by decide)
    simp only [combineF, combineR, h0, h1, h2, and_self]

/-- Settles O53: INVOKE reads no key, and the others read keys only through the combinations of the count. -/
theorem keysBeyondTheCountHaveNoEffect : Obligations.KeysBeyondTheCountHaveNoEffect := by
  unfold Obligations.KeysBeyondTheCountHaveNoEffect
  refine ⟨fun s K => execInvoke_withKeys, fun i s K hi h => ?_⟩
  have hF : ∀ n, keyCount? s.kcnt = some n → combineF K n = combineF s.keys n :=
    fun n hn => (combine_congr_of_count hn h).1
  have hR : ∀ n, keyCount? s.kcnt = some n → combineR K n = combineR s.keys n :=
    fun n hn => (combine_congr_of_count hn h).2
  obtain rfl | rfl | rfl | rfl | rfl := hi
  · exact execKcombF_withKeys hF
  · exact execKcombR_withKeys hR
  · exact execInvoke_withKeys
  · exact execCbcEnc_withKeys hF
  · exact execCbcDec_withKeys hF hR

/-! ## Two keys and three -/

/-- R160. The encryption loop uses a chain only through its invocation. -/
theorem encryptBlocks_congr {S S' : Schedules} (h : ∀ x, invoke x S = invoke x S') (n : Nat) (chain : U64) (pt : List Byte) :
    encryptBlocks S n chain pt = encryptBlocks S' n chain pt := by
  induction n generalizing chain pt with
  | zero => simp only [encryptBlocks, h]
  | succ n ih => simp only [encryptBlocks_succ, h, ih]

/-- R185 item 6. Encryption under two keys, with the first as the third. -/
theorem cbcEncrypt_twoKey (K : Vector U64 3) (iv : U64) (pt : List Byte) :
    cbcEncrypt K .twoKey iv pt = cbcEncrypt #v[K[0], K[1], K[0]] .threeKey iv pt :=
  encryptBlocks_congr (S := combineF K .twoKey) (S' := combineF #v[K[0], K[1], K[0]] .threeKey) (fun _ => rfl) _ iv pt

/-- R25, R171. The checks of a CBC command with two keys and with three. -/
theorem cbcOperands_threeKey {s : State} (h : s.kcnt = 2#32) (K : Vector U64 3) :
    (∃ e, cbcOperands s = .error e ∧ cbcOperands { s with kcnt := 3#32, keys := K } = .error e) ∨
    ∃ o, cbcOperands s = .ok o ∧ o.count = .twoKey ∧
      cbcOperands { s with kcnt := 3#32, keys := K } = .ok { o with count := .threeKey } := by
  unfold cbcOperands
  rw [h]
  simp only [keyCount?_two, keyCount?_three]
  cases bufferLength? s.len with
  | none => exact .inl ⟨_, rfl, rfl⟩
  | some L =>
    dsimp only
    split
    · split
      · exact .inl ⟨_, rfl, rfl⟩
      · exact .inr ⟨_, rfl, rfl, rfl⟩
    · exact .inl ⟨_, rfl, rfl⟩

/-- Settles O54: the checks answer alike but for the count, and the two chains have the same invocation. -/
theorem twoKeysAreThreeWithTheFirstReused : Obligations.TwoKeysAreThreeWithTheFirstReused := by
  unfold Obligations.TwoKeysAreThreeWithTheFirstReused
  intro s hk
  rcases cbcOperands_threeKey hk #v[s.keys[0], s.keys[1], s.keys[0]] with ⟨e, he, he'⟩ | ⟨o, ho, hcount, ho'⟩
  · exact ⟨_, State.runCbc_of_error length_cbcEncrypt he, State.runCbc_of_error length_cbcEncrypt he'⟩
  · refine ⟨_, State.runCbc_of_ok length_cbcEncrypt ho, (State.runCbc_of_ok length_cbcEncrypt ho').trans ?_⟩
    rw [hcount, cbcEncrypt_twoKey]
    rfl

end Sys2Proof.Machine
end
